-- ==== Sys2Proof/Word.lean ====
section
/-! DEFINITION. The input word INP (30_encoding.md rule R40: 32 bits) and the byte of the two arrays
BITS and OUTBUF (10_state.md rules R13, R18: 8 bits each). -/

namespace Sys2Proof

/-- The input word INP of one clock cycle, bit 0 the least significant (30_encoding.md rule R40). -/
abbrev Word := BitVec 32

/-- One byte of the frame bit array or of the host-side output buffer (20_memory.md rule R30). -/
abbrev Byte := BitVec 8

end Sys2Proof
end

