-- ==== Sys2Proof/Syntax.lean ====
section
/-! DEFINITION. The eight externally requestable operations (30_encoding.md rule R44, opcode_table.json),
the bundle of operations one INP word requests (rule R42), and the classes of reserved words (rule R43). -/

namespace Sys2Proof

/-- The operations of the opcode table, one constructor per row. Only GETDATA has an operand: MAXBITS,
16 bits, unsigned (30_encoding.md rule R41). -/
inductive Instr where
  | rst
  | nop
  | tick
  | fall
  | rise
  | wdt
  | getstate
  | getdata (maxBits : BitVec 16)
  deriving DecidableEq, Repr

/-- The operations requested in one clock cycle, in the order in which they are executed
(30_encoding.md rule R42). -/
abbrev Bundle := List Instr

/-- The three classes of reserved words (30_encoding.md rule R43 (a), (b), (c)). -/
inductive ReservedClass where
  /-- FALL = 1 and RISE = 1 together. -/
  | bothEdges
  /-- HOP = 3. -/
  | hostOp3
  /-- Any of bits 15:7 set. -/
  | zeroBits
  deriving DecidableEq, Repr

/-- Who requests an operation (30_encoding.md rule R44, last column; 60_exceptions.md rule R102). -/
inductive Requester where
  | edgeSource
  | timeBase
  | periodicTicker
  | host
  | platform
  | nobody
  deriving DecidableEq, Repr

/-- The contexts of 60_exceptions.md rule R107. -/
inductive RequestContext where
  | event
  | application
  | construction
  deriving DecidableEq, Repr

end Sys2Proof
end

