-- ==== Sys2Proof/WellFormed.lean ====
section
/-! DEFINITION. Which lists of operations one INP word can request (30_encoding.md rule R42). Every single
operation is well formed: MAXBITS may take each of its 65536 values (rule R41, 45_host_api.md R97 (g)). -/

namespace Sys2Proof

/-- The place of an operation in the order of 30_encoding.md rule R42: TICK, then the edge, then WDT, then
the host operation. RST and NOP have no place beside another operation. -/
def Instr.place : Instr → Option Nat
  | .rst => none
  | .nop => none
  | .tick => some 0
  | .fall => some 1
  | .rise => some 1
  | .wdt => some 2
  | .getstate => some 3
  | .getdata _ => some 3

/-- Check 1: a bundle requests something; the idle cycle is the bundle [NOP]. -/
def Bundle.nonempty (ops : Bundle) : Bool := !ops.isEmpty

/-- Check 2: RST and NOP stand alone (RST overrides every other bit, NOP is the empty request). -/
def Bundle.aloneOk (ops : Bundle) : Bool :=
  ops.length == 1 || ops.all fun i => i.place.isSome

/-- Check 3: two operations of one bundle have different places, in rising order: TICK before the edge
before WDT before the host operation, at most one of each, and never both edges (rules R42, R43). -/
def Bundle.ordered (ops : Bundle) : Bool :=
  decide ((ops.filterMap Instr.place).Pairwise (· < ·))

/-- A list of operations that one INP word can request. -/
def Bundle.wf (ops : Bundle) : Bool := Bundle.nonempty ops && Bundle.aloneOk ops && Bundle.ordered ops

/-- A single operation is well formed when the bundle of it alone is. -/
def Instr.wf (i : Instr) : Bool := Bundle.wf [i]

end Sys2Proof
end

