-- ==== Sys2Proof/Decode.lean ====
section
/-! DEFINITION. Decoding of an INP word into its ordered list of operations (30_encoding.md rules R40 to
R43), the encoder (rules R44, R47), and the operation table as data (rule R44, opcode_table.json). -/

namespace Sys2Proof

/-! ### The fields of INP (rule R40) -/

abbrev Word.tickBit (w : Word) : Bool := w.getLsbD 0
abbrev Word.fallBit (w : Word) : Bool := w.getLsbD 1
abbrev Word.riseBit (w : Word) : Bool := w.getLsbD 2
abbrev Word.wdtBit (w : Word) : Bool := w.getLsbD 3
/-- HOP = INP[5:4]. -/
abbrev Word.hop (w : Word) : BitVec 2 := w.extractLsb' 4 2
abbrev Word.rstBit (w : Word) : Bool := w.getLsbD 6
/-- INP[15:7], which must be 0. -/
abbrev Word.zeroField (w : Word) : BitVec 9 := w.extractLsb' 7 9
/-- MAXBITS = INP[31:16] (rule R41). -/
abbrev Word.maxBits (w : Word) : BitVec 16 := w.extractLsb' 16 16

/-! ### Decoding (rules R42, R43) -/

/-- The first test of rule R42 that a word with RST = 0 fails, if any. -/
def Word.reserved? (w : Word) : Option ReservedClass :=
  if w.zeroField ≠ 0 then some .zeroBits
  else if w.fallBit && w.riseBit then some .bothEdges
  else if w.hop = 3 then some .hostOp3
  else none

/-- The list `ops` that rule R42 builds for a legal word with RST = 0; it may be empty. -/
def Word.requests (w : Word) : List Instr :=
  (if w.tickBit then [.tick] else [])
    ++ (if w.fallBit then [.fall] else [])
    ++ (if w.riseBit then [.rise] else [])
    ++ (if w.wdtBit then [.wdt] else [])
    ++ (if w.hop = 1 then [.getstate] else [])
    ++ (if w.hop = 2 then [.getdata w.maxBits] else [])

/-- The empty list is NOP (rule R42, last line; 40_primitives.md rule R59). -/
def orNop (ops : List Instr) : Bundle := if ops.isEmpty then [.nop] else ops

/-- `decode(INP)` of rule R42: the ordered operations a word requests, or the class of rule R43 for which
the word is reserved. -/
def decode (w : Word) : Except ReservedClass Bundle :=
  if w.rstBit then .ok [.rst]
  else match w.reserved? with
    | some why => .error why
    | none => .ok (orNop w.requests)

/-! ### Encoding (rules R44, R47) -/

/-- The word of a single operation, every unused field 0 (rule R47). -/
def encode : Instr → Word
  | .rst => 0x00000040
  | .nop => 0x00000000
  | .tick => 0x00000001
  | .fall => 0x00000002
  | .rise => 0x00000004
  | .wdt => 0x00000008
  | .getstate => 0x00000010
  | .getdata m => (m.setWidth 32 <<< 16) ||| 0x00000020

/-- "A bundle assembles to the bitwise OR of its items" (rule R47). -/
def encodeBundle (ops : Bundle) : Word := ops.foldr (fun i w => encode i ||| w) 0

/-! ### The operation table (rule R44) -/

/-- One row of the table of rule R44: the operation is requested when `INP &&& mask = pattern`. -/
structure TableRow where
  mnemonic : String
  mask : Word
  pattern : Word
  deriving DecidableEq, Repr

/-- The row of an operation, from rule R44's table. -/
def Instr.row : Instr → TableRow
  | .rst => ⟨"RST", 0x00000040, 0x00000040⟩
  | .nop => ⟨"NOP", 0x0000FFFF, 0x00000000⟩
  | .tick => ⟨"TICK", 0x0000FFC1, 0x00000001⟩
  | .fall => ⟨"FALL", 0x0000FFC6, 0x00000002⟩
  | .rise => ⟨"RISE", 0x0000FFC6, 0x00000004⟩
  | .wdt => ⟨"WDT", 0x0000FFC8, 0x00000008⟩
  | .getstate => ⟨"GETSTATE", 0x0000FFF0, 0x00000010⟩
  | .getdata _ => ⟨"GETDATA", 0x0000FFF0, 0x00000020⟩

/-- Whether a word matches a row. -/
def TableRow.hits (r : TableRow) (w : Word) : Bool := w &&& r.mask == r.pattern

/-- Who requests an operation (rule R44, last column). -/
def Instr.requester : Instr → Requester
  | .rst => .platform
  | .nop => .nobody
  | .tick => .timeBase
  | .fall => .edgeSource
  | .rise => .edgeSource
  | .wdt => .periodicTicker
  | .getstate => .host
  | .getdata _ => .host

/-- The context a requester belongs to (60_exceptions.md rule R107); nobody is in none. -/
def Requester.context : Requester → Option RequestContext
  | .edgeSource => some .event
  | .timeBase => some .event
  | .periodicTicker => some .event
  | .host => some .application
  | .platform => some .construction
  | .nobody => none

/-! ### What the host reads -/

/-- The word whose low `nbits` bits are those of `w` and whose other bits are 0. -/
def tableWord (nbits w : Nat) : Word := BitVec.ofNat 32 (w % 2 ^ nbits)

/-- The instruction the decoder reads from a word of the opcode table: the first operation of the word's
bundle, which is the whole bundle for a word of rule R47's single items (notes/assumptions/5.md). -/
def decodeTableWord (nbits w : Nat) : Option Instr :=
  match decode (tableWord nbits w) with
  | .ok (i :: _) => some i
  | _ => none

end Sys2Proof
end

