-- ==== Sys2Proof/Config.lean ====
section
/-! DEFINITION. The configuration record: the parameters of 00_scope.md rules R4 and R5, constant over a
run (20_memory.md rule R38). The default values stand in Sys2Proof/Machine/Params.lean. -/

namespace Sys2Proof

/-- The parameters of 00_scope.md rules R4 (values the document gives) and R5 (values it leaves open),
under the spec's names. Durations are in microseconds. W_BC is no field: it follows from CAP_BYTES. W_MB
is no field: the layout of INP fixes it at 16 (30_encoding.md rule R41). DESIGN CHOICE: the record stands
in State (notes/assumptions/1.md). -/
structure Config where
  /-- TU_NEC, TU_AEHA, TU_SONY: the unit-widths. -/
  tuNec : Nat
  tuAeha : Nat
  tuSony : Nat
  /-- TOL_LO = tolLoNum/tolLoDen and TOL_HI = tolHiNum/tolHiDen: the tolerance band. -/
  tolLoNum : Nat
  tolLoDen : Nat
  tolHiNum : Nat
  tolHiDen : Nat
  /-- K_NEC_MARK, K_NEC_SPACE: the NEC leader, in units of TU_NEC. -/
  kNecMark : Nat
  kNecSpace : Nat
  /-- K_NECR_MARK, K_NECR_SPACE: the NEC repeat leader. -/
  kNecrMark : Nat
  kNecrSpace : Nat
  /-- K_AEHA_MARK, K_AEHA_SPACE: the AEHA leader, in units of TU_AEHA. -/
  kAehaMark : Nat
  kAehaSpace : Nat
  /-- K_AEHAR_MARK, K_AEHAR_SPACE: the AEHA repeat leader. -/
  kAeharMark : Nat
  kAeharSpace : Nat
  /-- K_SONY_LEADER: the SONY leader mark, in units of TU_SONY. -/
  kSonyLeader : Nat
  /-- MIN_LEADER: the noise floor of the first mark. -/
  minLeader : Nat
  /-- K_BIT1, K_BIT0 of NEC and AEHA. -/
  kBit1 : Nat
  kBit0 : Nat
  /-- K_BIT1, K_BIT0 of SONY. -/
  kSonyBit1 : Nat
  kSonyBit0 : Nat
  /-- TMO_NEC, TMO_AEHA, TMO_SONY: the silence that ends a frame. -/
  tmoNec : Nat
  tmoAeha : Nat
  tmoSony : Nat
  /-- WD_PERIOD in milliseconds (produced outside the block) and WD_THRESHOLD in WDT events. -/
  wdPeriod : Nat
  wdThreshold : Nat
  /-- CAP_BYTES: bytes in BITS and in OUTBUF. -/
  capBytes : Nat
  /-- W_T, W_TMO, W_WD: widths of ELAPSED and the timestamps, of TMO_CNT, of WDCNT. -/
  wT : Nat
  wTmo : Nat
  wWd : Nat
  deriving DecidableEq, Repr

/-- The greatest duration the timeout engine is ever loaded with (10_state.md rule R23 (d)). -/
abbrev Config.tmoMax (c : Config) : Nat := max c.tmoNec (max c.tmoAeha c.tmoSony)

/-- What the spec asks of a configuration: CAP_BYTES is at least 1 (00_scope.md rule R5), every timeout
duration d has 1 ≤ d < 2^W_TMO (40_primitives.md rule R56), and WDCNT can hold the value one above
WD_THRESHOLD that rule R90 of 44_watchdog.md compares (00_scope.md rule R5, row W_WD). -/
abbrev Config.wf (c : Config) : Prop :=
  1 ≤ c.capBytes ∧ 1 ≤ c.tmoNec ∧ 1 ≤ c.tmoAeha ∧ 1 ≤ c.tmoSony ∧ c.tmoMax < 2 ^ c.wTmo ∧
    c.wdThreshold + 1 < 2 ^ c.wWd

end Sys2Proof
end

