-- ==== Sys2Proof/Machine/Params.lean ====
section
/-! DEFINITION. The default parameter values (00_scope.md rules R4, R5) and the quantities that follow from
the parameters. -/

namespace Sys2Proof

/-- The defaults of 00_scope.md rules R4 and R5. -/
def Config.default : Config where
  tuNec := 562
  tuAeha := 425
  tuSony := 600
  tolLoNum := 7
  tolLoDen := 10
  tolHiNum := 13
  tolHiDen := 10
  kNecMark := 16
  kNecSpace := 8
  kNecrMark := 16
  kNecrSpace := 4
  kAehaMark := 8
  kAehaSpace := 4
  kAeharMark := 8
  kAeharSpace := 8
  kSonyLeader := 4
  minLeader := 150
  kBit1 := 3
  kBit0 := 1
  kSonyBit1 := 2
  kSonyBit0 := 1
  tmoNec := 5 * 562
  tmoAeha := 5 * 425
  tmoSony := 4 * 600
  wdPeriod := 10
  wdThreshold := 50
  capBytes := 64
  wT := 32
  wTmo := 12
  wWd := 6

/-- CAP_BITS = 8·CAP_BYTES (rule R5). -/
abbrev Config.capBits (c : Config) : Nat := 8 * c.capBytes

/-- W_BC = ⌈log2(CAP_BITS + 1)⌉, the width of BITCOUNT, OUTCNT and RET_VAL (rule R5). -/
def Config.wBc (c : Config) : Nat := Nat.clog 2 (c.capBits + 1)

/-- 2^W_T − 1, at which ELAPSED saturates (10_state.md rule R15). -/
abbrev Config.elapsedMax (c : Config) : Nat := 2 ^ c.wT - 1

/-! The nominal durations, each an exact product k·Tu (40_primitives.md rule R50). -/

def Config.nNecMark (c : Config) : Nat := c.kNecMark * c.tuNec
def Config.nNecSpace (c : Config) : Nat := c.kNecSpace * c.tuNec
def Config.nNecrMark (c : Config) : Nat := c.kNecrMark * c.tuNec
def Config.nNecrSpace (c : Config) : Nat := c.kNecrSpace * c.tuNec
def Config.nAehaMark (c : Config) : Nat := c.kAehaMark * c.tuAeha
def Config.nAehaSpace (c : Config) : Nat := c.kAehaSpace * c.tuAeha
def Config.nAeharMark (c : Config) : Nat := c.kAeharMark * c.tuAeha
def Config.nAeharSpace (c : Config) : Nat := c.kAeharSpace * c.tuAeha
def Config.nSonyLeader (c : Config) : Nat := c.kSonyLeader * c.tuSony
def Config.nSony1 (c : Config) : Nat := c.kSonyBit1 * c.tuSony
def Config.nSony0 (c : Config) : Nat := c.kSonyBit0 * c.tuSony

/-- Nominal of a 1 bit of a pulse-distance format whose unit-width is `tu` (NEC, AEHA). -/
def Config.nBit1 (c : Config) (tu : Nat) : Nat := c.kBit1 * tu

/-- Nominal of a 0 bit of a pulse-distance format whose unit-width is `tu` (NEC, AEHA). -/
def Config.nBit0 (c : Config) (tu : Nat) : Nat := c.kBit0 * tu

end Sys2Proof
end

