-- ==== Sys2Proof/Machine/State.lean ====
section
/-! DEFINITION. The state of the block (10_state.md), as plain data, its reset value (rule R24), and the
reasons for which a step stops. -/

namespace Sys2Proof.Machine

/-- STATE, a DecoderState. The value 3 of the 2-bit register is unrepresentable (rules R10, R82). -/
inductive DecoderState where
  | idle
  | receiving
  | received
  deriving DecidableEq, Repr

/-- FORMAT and OUTFMT, a ProtocolFormat. The values 6 and 7 are unrepresentable (rules R11, R82). -/
inductive ProtocolFormat where
  | unknown
  | nec
  | necRepeat
  | aeha
  | aehaRepeat
  | sony
  deriving DecidableEq, Repr

/-- A byte array, BITS or OUTBUF (20_memory.md rule R30), as the list of its bytes that are not 0, by rising
index. A byte that is not listed reads 0, which is what RST and FullReset leave in it (10_state.md rule
R24). Memory.wf (Machine/Memory.lean) says that the form holds. -/
abbrev Memory := List Host.Cell

end Sys2Proof.Machine

namespace Sys2Proof.Machine

/-- The state. Field names are the spec's register names in lower case. A timestamp is `none` when unset and
`some t` when set(t) (rule R14). Counters and timers are natural numbers; that each fits the width the spec
gives it is part of the invariant (Sys2Proof/Safety.lean; notes/assumptions/6.md). -/
structure State where
  /-- The parameters of R4 and R5, constant over a run (the model's own field, notes/assumptions/1.md). -/
  cfg : Config
  /-- INP words of the coming cycles, the next one first (the model's own field, notes/assumptions/2.md). -/
  inputs : List Word
  /-- STATE (R10). -/
  state : DecoderState
  /-- FORMAT (R11). -/
  format : ProtocolFormat
  /-- BITCOUNT (R12), W_BC bits. -/
  bitCount : Nat
  /-- BITS (R13). -/
  bits : Memory
  /-- T[c1], T[c2], T[c3], T[d1], T[d2] (R14), 1 + W_T bits each. -/
  c1 : Option Nat
  c2 : Option Nat
  c3 : Option Nat
  d1 : Option Nat
  d2 : Option Nat
  /-- ELAPSED (R15), W_T bits. -/
  elapsed : Nat
  /-- RUN (R15). -/
  run : Bool
  /-- TMO_CNT (R16), W_TMO bits. -/
  tmoCnt : Nat
  /-- TMO_ARMED (R16). -/
  tmoArmed : Bool
  /-- WDCNT (R17), W_WD bits. -/
  wdCnt : Nat
  /-- OUTFMT (R18). -/
  outFmt : ProtocolFormat
  /-- OUTCNT (R18), W_BC bits. -/
  outCnt : Nat
  /-- OUTBUF (R18). -/
  outBuf : Memory
  /-- RET_ERR (R19). -/
  retErr : Bool
  /-- RET_VAL (R19), W_BC bits. -/
  retVal : Nat
  deriving DecidableEq, Repr

/-- The block has no faults: "A model has no fault state and no stuck state for this block"
(60_exceptions.md rule R101). The type is empty, so no step can end in a fault. -/
inductive Fault where
  deriving DecidableEq, Repr

/-- Why a step is refused. -/
inductive Refusal where
  /-- An operation with no meaning in the model. Raised by an arm of exec only, and by no arm of this
  model: every operation has its meaning. Safe. -/
  | notModelled (mnemonic : String)
  /-- The next input word is reserved: "a model refuses it (it has no step for it)" (30_encoding.md rule
  R43). Raised by step, before any operation of the word. Safe. -/
  | reservedWord (why : ReservedClass) (word : Word)
  deriving DecidableEq, Repr

/-- The state right after RST (10_state.md rule R24), with the default parameters (00_scope.md R4, R5) and no
input word yet presented (notes/assumptions/2.md and 3.md). -/
def State.reset : State where
  cfg := Config.default
  inputs := []
  state := .idle
  format := .unknown
  bitCount := 0
  bits := []
  c1 := none
  c2 := none
  c3 := none
  d1 := none
  d2 := none
  elapsed := 0
  run := false
  tmoCnt := 0
  tmoArmed := false
  wdCnt := 0
  outFmt := .unknown
  outCnt := 0
  outBuf := []
  retErr := false
  retVal := 0

end Sys2Proof.Machine
end

