-- ==== Sys2Proof/Machine/Memory.lean ====
section
/-! DEFINITION. The two byte arrays BITS and OUTBUF: reading and writing one byte, one bit, and copying
bytes (20_memory.md rules R30 to R33). -/

namespace Sys2Proof.Machine

/-- The canonical form: indices strictly rising, no byte listed that is 0. -/
abbrev Memory.wf (m : Memory) : Prop :=
  m.Pairwise (fun x y => x.1 < y.1) ∧ ∀ x ∈ m, x.2 ≠ 0

/-- `MemRead(m, j, 1)`: byte `j`. A byte that is not listed reads 0 (10_state.md rules R13, R24). -/
def Memory.read : Memory → Nat → Byte
  | [], _ => 0
  | (a, v) :: rest, j => if a = j then v else Memory.read rest j

/-- `MemWrite(m, j, 1, v)` for a byte `v` that is not 0: its entry replaced, or put in its place. -/
def Memory.put : Memory → Nat → Byte → Memory
  | [], j, v => [(j, v)]
  | (a, u) :: rest, j, v =>
    if j < a then (j, v) :: (a, u) :: rest
    else if j = a then (j, v) :: rest
    else (a, u) :: Memory.put rest j v

/-- `MemWrite(m, j, 1, v)`: writing 0 takes the entry out, so the form stays canonical. -/
def Memory.write (m : Memory) (j : Nat) (v : Byte) : Memory :=
  if v = 0 then m.filter (fun x => x.1 ≠ j) else m.put j v

/-- `v` with bit `k` set to `b`, the other bits unchanged (20_memory.md rule R33 (a)). -/
def setBit (v : Byte) (k : Nat) (b : Bool) : Byte :=
  if b then v ||| (1#8 <<< k) else v &&& ~~~(1#8 <<< k)

/-- Frame bit `i`: `BITS[i div 8][i mod 8]`, least significant bit first (20_memory.md rule R31). -/
def Memory.bit (m : Memory) (i : Nat) : Bool := (m.read (i / 8)).getLsbD (i % 8)

/-- Writing frame bit `i`, a read-modify-write of its byte (20_memory.md rules R31, R33 (a)). -/
def Memory.writeBit (m : Memory) (i : Nat) (b : Bool) : Memory :=
  m.write (i / 8) (setBit (m.read (i / 8)) (i % 8) b)

/-- Bytes 0 .. n−1 of `src` copied into `dst`; the other bytes of `dst` keep what they had
(20_memory.md rule R33 (c), 10_state.md rule R18). -/
def Memory.copy (src dst : Memory) : Nat → Memory
  | 0 => dst
  | n + 1 => (Memory.copy src dst n).write n (src.read n)

/-- ⌈n/8⌉, the number of bytes that hold `n` frame bits (45_host_api.md rule R96). -/
abbrev bytesFor (n : Nat) : Nat := (n + 7) / 8

end Sys2Proof.Machine
end

