-- ==== Sys2Proof/Machine/Operands.lean ====
section
/-! DEFINITION. Everything an operation reads: the encodings of the enumerations, the timestamps and their
differences, the classifier inRange, and the classification of a leader and of a bit. Pure functions. -/

namespace Sys2Proof.Machine

/-- The number of a DecoderState (30_encoding.md rule R45). -/
def DecoderState.code : DecoderState → Nat
  | .idle => 0
  | .receiving => 1
  | .received => 2

/-- The number of a ProtocolFormat (30_encoding.md rule R45). -/
def ProtocolFormat.code : ProtocolFormat → Nat
  | .unknown => 0
  | .nec => 1
  | .necRepeat => 2
  | .aeha => 3
  | .aehaRepeat => 4
  | .sony => 5

/-- The names of the five timestamps (10_state.md rule R14). -/
inductive Stamp where
  | c1
  | c2
  | c3
  | d1
  | d2
  deriving DecidableEq, Repr

/-- T[k]. -/
def State.stamp (s : State) : Stamp → Option Nat
  | .c1 => s.c1
  | .c2 => s.c2
  | .c3 => s.c3
  | .d1 => s.d1
  | .d2 => s.d2

/-- `diff(p, q)` of 40_primitives.md rule R53 on the contents of T[p] and T[q]: `none` when either is unset.
The subtraction never underflows in a state that meets the invariant (10_state.md rule R23 (f)); in any other
state it stops at 0 (notes/assumptions/7.md). -/
def diffOf : Option Nat → Option Nat → Option Nat
  | some p, some q => some (p - q)
  | _, _ => none

/-- `diff(p, q)` (40_primitives.md rule R53). -/
def State.diff (s : State) (p q : Stamp) : Option Nat := diffOf (s.stamp p) (s.stamp q)

/-- `inRange(x, N)` (40_primitives.md rule R51): TOL_LO·N < x < TOL_HI·N in exact integers, and false when
`x` is `none`. -/
def inRange (c : Config) (x : Option Nat) (nominal : Nat) : Bool :=
  match x with
  | some x => decide (c.tolLoNum * nominal < c.tolLoDen * x) && decide (c.tolHiDen * x < c.tolHiNum * nominal)
  | none => false

/-- `x < bound`, false when `x` is `none` (40_primitives.md rule R53: a measurement that is none matches
nothing). Used with MIN_LEADER, where `x` is always a number (41_idle_edges.md rule R69). -/
def isBelow (x : Option Nat) (bound : Nat) : Bool :=
  match x with
  | some x => decide (x < bound)
  | none => false

/-- The four tests of 41_idle_edges.md rule R68, in its order, on the leader mark `a` and space `b`. -/
def classifyLeader (c : Config) (a b : Option Nat) : Option ProtocolFormat :=
  if inRange c a c.nNecMark && inRange c b c.nNecSpace then some .nec
  else if inRange c a c.nNecrMark && inRange c b c.nNecrSpace then some .necRepeat
  else if inRange c a c.nAehaMark && inRange c b c.nAehaSpace then some .aeha
  else if inRange c a c.nAeharMark && inRange c b c.nAeharSpace then some .aehaRepeat
  else none

/-- The result of the two band tests of one bit interval (40_primitives.md rule R58). -/
inductive BitClass where
  | one
  | zero
  | noMatch
  deriving DecidableEq, Repr

/-- The two band tests, in the order of 42_receiving_edges.md rules R75 and R78. -/
def classifyBit (c : Config) (x : Option Nat) (nominal1 nominal0 : Nat) : BitClass :=
  if inRange c x nominal1 then .one
  else if inRange c x nominal0 then .zero
  else .noMatch

/-- The class of an NEC or AEHA bit interval, `tu` its unit-width (rule R75). -/
def classifySpace (c : Config) (tu : Nat) (x : Option Nat) : BitClass :=
  classifyBit c x (c.nBit1 tu) (c.nBit0 tu)

/-- The class of a SONY bit interval (rule R78). -/
def classifySonyMark (c : Config) (x : Option Nat) : BitClass :=
  classifyBit c x c.nSony1 c.nSony0

/-- MAXBITS zero-extended for the comparison with BITCOUNT (30_encoding.md rule R41). -/
abbrev maxBitsValue (m : BitVec 16) : Nat := m.toNat

end Sys2Proof.Machine
end

