-- ==== Sys2Proof/Machine/Flags.lean ====
section
/-! DEFINITION. The single-bit status flags (10_state.md rule R20) and the condition the watchdog computes
from them (44_watchdog.md rule R90). The block has no condition codes. -/

namespace Sys2Proof.Machine

/-- T[k].v, the valid bit of a timestamp (00_scope.md, notation; rule R14). -/
def State.valid (s : State) (k : Stamp) : Bool := (s.stamp k).isSome

/-- T[k].t, the value of a timestamp, 0 when it is unset (00_scope.md, notation; rule R14). -/
def State.stampValue (s : State) (k : Stamp) : Nat := (s.stamp k).getD 0

/-- Some working timestamp is set. -/
def State.anyStamp (s : State) : Bool :=
  s.valid .c1 || s.valid .c2 || s.valid .c3 || s.valid .d1 || s.valid .d2

/-- `busy` of 44_watchdog.md rule R90: not in Idle, or some working timestamp is set. -/
def State.busy (s : State) : Bool := s.state != .idle || s.anyStamp

end Sys2Proof.Machine
end

