-- ==== Sys2Proof/Machine/Ops.lean ====
section
/-! DEFINITION. The named operations on the state: sampling the input word, setting a timestamp, and the
micro-operations ClearTs, CancelTimeout, ArmTimeout, FullReset, AppendBit (40_primitives.md rules R54 to R58)
and TMOFIRE (43_tick_timeout.md rule R86).

The block has no trap entry and no return (60_exceptions.md rules R105, R106): an error kind saves nothing
and transfers control nowhere. What takes the place of taking an exception is FullReset, for
ProtocolMismatch and StuckState, and the result flag RET_ERR, for CapacityError (rule R100). -/

namespace Sys2Proof.Machine

/-- The INP word of the coming cycle. When no requester presents anything the word is 0, the idle cycle
(30_encoding.md rules R40, R44 row NOP; notes/assumptions/2.md). -/
def State.nextWord (s : State) : Word := s.inputs.headD 0

/-- The state once the word of the coming cycle has been sampled. -/
def State.dropWord (s : State) : State := { s with inputs := s.inputs.tail }

/-- The environment presents a word in the coming cycle, before those already scheduled. -/
def State.presentWord (s : State) (w : Word) : State := { s with inputs := w :: s.inputs }

/-- `T[k] <- t`. -/
def State.setStamp (s : State) (k : Stamp) (t : Option Nat) : State :=
  match k with
  | .c1 => { s with c1 := t }
  | .c2 => { s with c2 := t }
  | .c3 => { s with c3 := t }
  | .d1 => { s with d1 := t }
  | .d2 => { s with d2 := t }

/-- `T[k] <- set(ELAPSED)`. -/
def State.stampNow (s : State) (k : Stamp) : State := s.setStamp k (some s.elapsed)

/-- ClearTs (rule R54). -/
def State.clearTs (s : State) : State :=
  { s with c1 := none, c2 := none, c3 := none, d1 := none, d2 := none }

/-- CancelTimeout (rule R55). -/
def State.cancelTimeout (s : State) : State := { s with tmoArmed := false, tmoCnt := 0 }

/-- ArmTimeout(d) (rule R56). -/
def State.armTimeout (s : State) (d : Nat) : State := { s with tmoCnt := d, tmoArmed := true }

/-- FullReset (rule R57). WDCNT, OUTFMT, OUTCNT, OUTBUF, RET_ERR and RET_VAL are not written. -/
def State.fullReset (s : State) : State :=
  { s.clearTs.cancelTimeout with
    state := .idle
    format := .unknown
    bitCount := 0
    bits := []
    run := false
    elapsed := 0 }

/-- AppendBit(m) (rule R58): an ambiguous interval is counted and its bit keeps its value; at CAP_BITS the
bit is dropped. -/
def State.appendBit (s : State) (m : BitClass) : State :=
  if s.bitCount < s.cfg.capBits then
    match m with
    | .one => { s with bits := s.bits.writeBit s.bitCount true, bitCount := s.bitCount + 1 }
    | .zero => { s with bits := s.bits.writeBit s.bitCount false, bitCount := s.bitCount + 1 }
    | .noMatch => { s with bitCount := s.bitCount + 1 }
  else s

/-- TMOFIRE (rule R86): a stale firing, outside Receiving, changes nothing. -/
def State.tmoFire (s : State) : State :=
  if s.state = .receiving then { s with state := .received }.clearTs else s

/-- RET_ERR and RET_VAL, the result of a host operation (10_state.md rule R19). -/
def State.setResult (s : State) (err : Bool) (val : Nat) : State :=
  { s with retErr := err, retVal := val }

end Sys2Proof.Machine
end

