-- ==== Sys2Proof/Machine/Control.lean ====
section
/-! DEFINITION. The operations RST and NOP (40_primitives.md rules R59, R60). -/

namespace Sys2Proof.Machine

/-- RST (rule R60): FullReset, and every register FullReset leaves alone set to 0. -/
def State.hardReset (s : State) : State :=
  { s.fullReset with
    wdCnt := 0
    outFmt := .unknown
    outCnt := 0
    outBuf := []
    retErr := false
    retVal := 0 }

/-- RST (rule R60). -/
def execRst (s : State) : Host.Outcome State Fault Refusal := .next s.hardReset

/-- NOP (rule R59): no register changes, and no time passes. -/
def execNop (s : State) : Host.Outcome State Fault Refusal := .next s

end Sys2Proof.Machine
end

