-- ==== Sys2Proof/Machine/Edges.lean ====
section
/-! DEFINITION. The edge operations FALL and RISE: dispatch (41_idle_edges.md rules R65, R66), their arms in
Idle (rules R67 to R70), in Receiving (42_receiving_edges.md rules R75 to R79) and in Received (rule R80). -/

namespace Sys2Proof.Machine

/-! ### Idle -/

/-- FALL_IdleFirst (rule R67). -/
def State.fallIdleFirst (s : State) : State := { s with run := true }.stampNow .c1

/-- The leader's class at the second falling edge, T[c3] already stamped (rule R68). -/
def State.leaderClass (s : State) : Option ProtocolFormat :=
  classifyLeader s.cfg (s.diff .c2 .c1) (s.diff .c3 .c2)

/-- A leader is classified: FORMAT and STATE are written, BITCOUNT becomes 0 (rules R68, R69). -/
def State.enterFrame (s : State) (f : ProtocolFormat) (st : DecoderState) : State :=
  { s with format := f, state := st, bitCount := 0 }

/-- FALL_IdleSecond (rule R68). The four tests are tried in the rule's order. -/
def State.fallIdleSecond (s : State) : State :=
  let s1 := s.stampNow .c3
  match s1.leaderClass with
  | some .nec => s1.enterFrame .nec .receiving
  | some .necRepeat => (s1.enterFrame .necRepeat .received).clearTs
  | some .aeha => s1.enterFrame .aeha .receiving
  | some .aehaRepeat => (s1.enterFrame .aehaRepeat .received).clearTs
  | _ => s1.fullReset

/-- RISE_IdleMark (rule R69): SONY is tried first, then the noise floor. -/
def State.riseIdleMark (s : State) : State :=
  let s1 := s.stampNow .c2
  let a := s1.diff .c2 .c1
  if inRange s1.cfg a s1.cfg.nSonyLeader then s1.enterFrame .sony .receiving
  else if isBelow a s1.cfg.minLeader then s1.fullReset
  else s1

/-- RISE_IdleStray (rule R70). -/
def State.riseIdleStray (s : State) : State := s.fullReset

/-! ### Receiving -/

/-- FALL_RecvPulseDistance (rule R75) for a format of unit-width `tu` and timeout `tmo`. -/
def State.fallRecvPulseDistance (s : State) (tu tmo : Nat) : State :=
  let s1 := s.stampNow .d2
  (s1.appendBit (classifySpace s1.cfg tu (s1.diff .d2 .d1))).armTimeout tmo

/-- RISE_RecvPulseDistance (rule R76). -/
def State.riseRecvPulseDistance (s : State) : State := s.stampNow .d1

/-- FALL_RecvSony (rule R77). -/
def State.fallRecvSony (s : State) : State := s.stampNow .d1

/-- RISE_RecvSony (rule R78). -/
def State.riseRecvSony (s : State) : State :=
  let s1 := s.stampNow .d2
  (s1.appendBit (classifySonyMark s1.cfg (s1.diff .d2 .d1))).armTimeout s1.cfg.tmoSony

/-! ### Dispatch -/

/-- FALL on the state (rule R65). -/
def State.fallEdge (s : State) : State :=
  match s.state with
  | .idle => if s.valid .c1 then s.fallIdleSecond else s.fallIdleFirst
  | .receiving =>
    match s.format with
    | .nec => s.fallRecvPulseDistance s.cfg.tuNec s.cfg.tmoNec
    | .aeha => s.fallRecvPulseDistance s.cfg.tuAeha s.cfg.tmoAeha
    | .sony => s.fallRecvSony
    | .unknown => s
    | .necRepeat => s
    | .aehaRepeat => s
  | .received => s

/-- RISE on the state (rule R66). -/
def State.riseEdge (s : State) : State :=
  match s.state with
  | .idle => if s.valid .c1 then s.riseIdleMark else s.riseIdleStray
  | .receiving =>
    match s.format with
    | .nec => s.riseRecvPulseDistance
    | .aeha => s.riseRecvPulseDistance
    | .sony => s.riseRecvSony
    | .unknown => s
    | .necRepeat => s
    | .aehaRepeat => s
  | .received => s

/-- FALL (rule R65). -/
def execFall (s : State) : Host.Outcome State Fault Refusal := .next s.fallEdge

/-- RISE (rule R66). -/
def execRise (s : State) : Host.Outcome State Fault Refusal := .next s.riseEdge

end Sys2Proof.Machine
end

