-- ==== Sys2Proof/Machine/HostApi.lean ====
section
/-! DEFINITION. The consumer operations GETSTATE and GETDATA (45_host_api.md rules R95, R96). -/

namespace Sys2Proof.Machine

/-- GETSTATE (rule R95): RET_ERR <- 0, RET_VAL <- the number of STATE. -/
def execGetstate (s : State) : Host.Outcome State Fault Refusal :=
  .next (s.setResult false s.state.code)

/-- The copy a successful GETDATA makes: OUTFMT, OUTCNT and the first ⌈BITCOUNT/8⌉ bytes of OUTBUF
(rule R96, 10_state.md rule R18). -/
def State.copyFrame (s : State) : State :=
  { s with
    outFmt := s.format
    outCnt := s.bitCount
    outBuf := Memory.copy s.bits s.outBuf (bytesFor s.bitCount) }

/-- GETDATA(MAXBITS) on the state (rule R96). STATE is not tested. -/
def State.getData (s : State) (maxBits : BitVec 16) : State :=
  if maxBitsValue maxBits < s.bitCount then s.setResult true 0
  else s.copyFrame.fullReset.setResult false s.bitCount

/-- GETDATA (rule R96). -/
def execGetdata (maxBits : BitVec 16) (s : State) : Host.Outcome State Fault Refusal :=
  .next (s.getData maxBits)

end Sys2Proof.Machine
end

