-- ==== Sys2Proof/Machine/Time.lean ====
section
/-! DEFINITION. The operation TICK: one microsecond elapses (43_tick_timeout.md rule R85). -/

namespace Sys2Proof.Machine

/-- The elapsed counter's half of TICK: it counts while RUN = 1 and saturates (rule R85). -/
def State.tickElapsed (s : State) : State :=
  if s.run && decide (s.elapsed < s.cfg.elapsedMax) then { s with elapsed := s.elapsed + 1 } else s

/-- The timeout's half of TICK: an armed timeout counts down, and fires on reaching 0 (rule R85). -/
def State.tickTimeout (s : State) : State :=
  if s.tmoArmed then
    if s.tmoCnt - 1 = 0 then { s with tmoCnt := s.tmoCnt - 1, tmoArmed := false }.tmoFire
    else { s with tmoCnt := s.tmoCnt - 1 }
  else s

/-- TICK (rule R85). -/
def execTick (s : State) : Host.Outcome State Fault Refusal := .next s.tickElapsed.tickTimeout

end Sys2Proof.Machine
end

