-- ==== Sys2Proof/Machine/Watchdog.lean ====
section
/-! DEFINITION. The operation WDT: the state-staleness supervisor (44_watchdog.md rule R90). -/

namespace Sys2Proof.Machine

/-- The count WDT compares with WD_THRESHOLD exceeds it (rule R90: increment first, then compare). -/
def State.wdExceeds (s : State) : Bool := s.busy && decide (s.wdCnt + 1 > s.cfg.wdThreshold)

/-- WDT on the state (rule R90). -/
def State.watchdogTick (s : State) : State :=
  if s.busy then
    if s.wdCnt + 1 > s.cfg.wdThreshold then { s.fullReset with wdCnt := 0 }
    else { s with wdCnt := s.wdCnt + 1 }
  else { s with wdCnt := 0 }

/-- WDT (rule R90). -/
def execWdt (s : State) : Host.Outcome State Fault Refusal := .next s.watchdogTick

end Sys2Proof.Machine
end

