-- ==== Sys2Proof/Machine/Dispatch.lean ====
section
/-! DEFINITION. One arm per operation of the opcode table (30_encoding.md rule R44). -/

namespace Sys2Proof.Machine

def exec (i : Instr) (s : State) : Host.Outcome State Fault Refusal :=
  match i with
  | .rst => Sys2Proof.Machine.execRst s
  | .nop => Sys2Proof.Machine.execNop s
  | .tick => Sys2Proof.Machine.execTick s
  | .fall => Sys2Proof.Machine.execFall s
  | .rise => Sys2Proof.Machine.execRise s
  | .wdt => Sys2Proof.Machine.execWdt s
  | .getstate => Sys2Proof.Machine.execGetstate s
  | .getdata m => Sys2Proof.Machine.execGetdata m s

end Sys2Proof.Machine
end

