-- ==== Sys2Proof/Machine/Bundle.lean ====
section
/-! DEFINITION. One clock cycle: the operations of the sampled word, one after another, each complete before
the next starts (30_encoding.md rule R42, 60_exceptions.md rule R104). -/

namespace Sys2Proof.Machine

/-- Operations in order, each on the state the one before it left (20_memory.md rule R34). -/
def execAll : List Instr → State → Host.Outcome State Fault Refusal
  | [], s => .next s
  | i :: rest, s =>
    match exec i s with
    | .next t => execAll rest t
    | .fault r => .fault r
    | .refused r => .refused r

/-- One cycle: sample a word, decode it, run its operations; a reserved word is refused (rule R43). -/
def State.cycle (s : State) : Host.Outcome State Fault Refusal :=
  match decode s.nextWord with
  | .ok ops => execAll ops s.dropWord
  | .error why => .refused (.reservedWord why s.nextWord)

/-- The state `n` bits of a table word would be run in: the word is presented in the coming cycle
(notes/assumptions/3.md). -/
def State.presentTableWord (s : State) (nbits w : Nat) : State := s.presentWord (tableWord nbits w)

end Sys2Proof.Machine
end

