-- ==== Sys2Proof/Machine/Ports.lean ====
section
/-! DEFINITION. What an observer sees of the block (30_encoding.md rule R46, 70_reset_and_hazards.md rule
R131) and the pins that carry INP and the outputs (30_encoding.md rule R49). -/

namespace Sys2Proof.Machine

/-- STATE and the five host result registers, all that is visible after a word (rules R46, R131). -/
structure Visible where
  state : DecoderState
  retErr : Bool
  retVal : Nat
  outFmt : ProtocolFormat
  outCnt : Nat
  outBuf : Memory
  deriving DecidableEq, Repr

/-- The visible part of a state. -/
def State.visible (s : State) : Visible :=
  ⟨s.state, s.retErr, s.retVal, s.outFmt, s.outCnt, s.outBuf⟩

/-- The input pins of rule R49, sampled on the rising edge of `clk`. -/
structure InputPins where
  rst : Bool
  usTick : Bool
  fallEvt : Bool
  riseEvt : Bool
  wdTick : Bool
  hostOp : BitVec 2
  hostMaxbits : BitVec 16
  deriving DecidableEq, Repr

/-- The INP word the pins carry; bits 15:7 are no wires and are 0 (rules R43, R49). -/
def InputPins.word (p : InputPins) : Word :=
  p.hostMaxbits ++ 0#9 ++ BitVec.ofBool p.rst ++ p.hostOp ++ BitVec.ofBool p.wdTick ++ BitVec.ofBool p.riseEvt
    ++ BitVec.ofBool p.fallEvt ++ BitVec.ofBool p.usTick

/-- The output pins of rule R49. `retVal` and `outCnt` are W_BC bits wide, `outBuf` 8·CAP_BYTES bits with
byte `j` in bits 8j+7:8j. -/
structure OutputPins where
  stateO : BitVec 2
  retErr : Bool
  retVal : Nat
  outFmt : BitVec 3
  outCnt : Nat
  outBuf : Nat
  deriving DecidableEq, Repr

/-- Bytes 0 .. n−1 of an array as one number, byte `j` in bits 8j+7:8j. -/
def Memory.packed (m : Memory) : Nat → Nat
  | 0 => 0
  | n + 1 => m.packed n + (m.read n).toNat * 2 ^ (8 * n)

/-- The output pins in a state (rule R49). -/
def State.outputPins (s : State) : OutputPins where
  stateO := BitVec.ofNat 2 s.state.code
  retErr := s.retErr
  retVal := s.retVal
  outFmt := BitVec.ofNat 3 s.outFmt.code
  outCnt := s.outCnt
  outBuf := s.outBuf.packed s.cfg.capBytes

end Sys2Proof.Machine
end

