-- ==== Sys2Proof/Machine/Signals.lean ====
section
/-! DEFINITION. The error kinds (60_exceptions.md rule R100): which ones an operation signals in a state. They
are labels for traces and proofs; no register holds them (rule R100, 10_state.md rule R21). -/

namespace Sys2Proof.Machine

/-- The five error kinds. -/
inductive ErrorKind where
  | capacityError
  | protocolMismatch
  | stuckState
  | ambiguousBitTiming
  | frameOverflow
  deriving DecidableEq, Repr

/-- The number n of the code E<n> of an error kind (rule R100). -/
def ErrorKind.code : ErrorKind → Nat
  | .capacityError => 1
  | .protocolMismatch => 2
  | .stuckState => 3
  | .ambiguousBitTiming => 4
  | .frameOverflow => 5

/-- What AppendBit(m) signals (40_primitives.md rule R58). -/
def appendSignals (s : State) (m : BitClass) : List ErrorKind :=
  (if m = .noMatch then [.ambiguousBitTiming] else [])
    ++ (if s.bitCount < s.cfg.capBits then [] else [.frameOverflow])

/-- What FALL signals (rules R68, R75). -/
def fallSignals (s : State) : List ErrorKind :=
  match s.state with
  | .idle =>
    if s.valid .c1 then
      match (s.stampNow .c3).leaderClass with
      | none => [.protocolMismatch]
      | some _ => []
    else []
  | .receiving =>
    let s1 := s.stampNow .d2
    match s.format with
    | .nec => appendSignals s1 (classifySpace s1.cfg s1.cfg.tuNec (s1.diff .d2 .d1))
    | .aeha => appendSignals s1 (classifySpace s1.cfg s1.cfg.tuAeha (s1.diff .d2 .d1))
    | .sony => []
    | .unknown => []
    | .necRepeat => []
    | .aehaRepeat => []
  | .received => []

/-- What RISE signals: a first mark below MIN_LEADER is filed under ProtocolMismatch, a stray rising edge
under nothing (rules R69, R70, R78, R100). -/
def riseSignals (s : State) : List ErrorKind :=
  match s.state with
  | .idle =>
    if s.valid .c1 then
      let s1 := s.stampNow .c2
      if inRange s1.cfg (s1.diff .c2 .c1) s1.cfg.nSonyLeader then []
      else if isBelow (s1.diff .c2 .c1) s1.cfg.minLeader then [.protocolMismatch]
      else []
    else []
  | .receiving =>
    let s1 := s.stampNow .d2
    match s.format with
    | .sony => appendSignals s1 (classifySonyMark s1.cfg (s1.diff .d2 .d1))
    | .nec => []
    | .aeha => []
    | .unknown => []
    | .necRepeat => []
    | .aehaRepeat => []
  | .received => []

/-- The error kinds an operation signals in a state (rule R100). -/
def signals (i : Instr) (s : State) : List ErrorKind :=
  match i with
  | .rst => []
  | .nop => []
  | .tick => []
  | .fall => fallSignals s
  | .rise => riseSignals s
  | .wdt => if s.wdExceeds then [.stuckState] else []
  | .getstate => []
  | .getdata m => if maxBitsValue m < s.bitCount then [.capacityError] else []

/-- The error kinds met on a sequence of operations, in order. -/
def signalsAll : List Instr → State → List ErrorKind
  | [], _ => []
  | i :: rest, s =>
    signals i s ++
      match exec i s with
      | .next t => signalsAll rest t
      | .fault _ => []
      | .refused _ => []

end Sys2Proof.Machine
end

