-- ==== Sys2Proof/Machine/Trace.lean ====
section
/-! DEFINITION. Traces: the items and pseudo-operations of 30_encoding.md rules R47 and R48, the words they
assemble to, the text they are written in, and runs, finite or infinite, with what is visible after each word
(70_reset_and_hazards.md rule R131). -/

namespace Sys2Proof.Machine

/-- An item of a trace (rules R47, R48). DESIGN CHOICE: a bundle holds real operations only. Rule R47's grammar
admits a pseudo-operation inside a bundle, and no rule gives a word for an item of several cycles there
(notes/assumptions/14.md). -/
inductive TraceItem where
  | op (i : Instr)
  | bundle (ops : Bundle)
  | adv (n : Nat)
  | mark (n : Nat)
  | space (n : Nat)
  | rf (m s : Nat)
  | fr (s m : Nat)
  | wdts (n : Nat)
  deriving DecidableEq, Repr

/-- `ADV n`: TICK, n times (rule R48). -/
def advOps (n : Nat) : List Instr := List.replicate n .tick

/-- Operations presented one per cycle. -/
def oneEach (ops : List Instr) : List Bundle := ops.map fun i => [i]

/-- The expansion of an item into cycles, each the list of operations of one word (rules R47, R48). -/
def TraceItem.cycles : TraceItem → List Bundle
  | .op i => [[i]]
  | .bundle ops => [ops]
  | .adv n => oneEach (advOps n)
  | .mark n => oneEach (.fall :: advOps n)
  | .space n => oneEach (.rise :: advOps n)
  | .rf m s => oneEach (advOps m ++ .rise :: advOps s ++ [.fall])
  | .fr s m => oneEach (advOps s ++ .fall :: advOps m ++ [.rise])
  | .wdts n => oneEach (List.replicate n (advOps 10000 ++ [.wdt])).flatten

/-- The INP words a trace assembles to (rule R47). -/
def assemble (trace : List TraceItem) : List Word :=
  (trace.flatMap TraceItem.cycles).map encodeBundle

/-- The text of an operation: its mnemonic, and the operand of GETDATA in decimal (rule R47). -/
def instrText (i : Instr) : String :=
  match i with
  | .getdata m => i.row.mnemonic ++ " " ++ toString m.toNat
  | _ => i.row.mnemonic

/-- The text of an item (rules R47, R48). A bundle stands between the characters 0x7B and 0x7D. -/
def TraceItem.text : TraceItem → String
  | .op i => instrText i
  | .bundle ops =>
    String.singleton (Char.ofNat 0x7B) ++ String.intercalate ", " (ops.map instrText)
      ++ String.singleton (Char.ofNat 0x7D)
  | .adv n => "ADV " ++ toString n
  | .mark n => "MARK " ++ toString n
  | .space n => "SPACE " ++ toString n
  | .rf m s => "RF " ++ toString m ++ " " ++ toString s
  | .fr s m => "FR " ++ toString s ++ " " ++ toString m
  | .wdts n => "WDTS " ++ toString n

/-- The text of a trace: its items separated by semicolons (rule R47). -/
def traceText (trace : List TraceItem) : String := String.intercalate "; " (trace.map TraceItem.text)

/-- The machine run over a list of INP words, one cycle each (rule R131). -/
def runWords : List Word → State → Host.Outcome State Fault Refusal
  | [], s => .next s
  | w :: ws, s =>
    match step (s.presentWord w) with
    | .next t => runWords ws t
    | .fault r => .fault r
    | .refused r => .refused r

/-- What is visible after each word of a list, in order (rules R46, R131). A reserved word ends the list: it
has no step (30_encoding.md rule R43). -/
def visibleTrace : List Word → State → List Visible
  | [], _ => []
  | w :: ws, s =>
    match step (s.presentWord w) with
    | .next t => t.visible :: visibleTrace ws t
    | .fault _ => []
    | .refused _ => []

/-- A list of words begins as a run does, with a word that has RST = 1 (rule R131). -/
def isRun (ws : List Word) : Bool :=
  match ws with
  | [] => false
  | w :: _ => w.rstBit

/-- A sequence of INP words, "finite or infinite" (rule R131). It is what the environment presents, one word a
cycle, and no part of State (notes/assumptions/15.md). -/
inductive WordSequence where
  | finite (ws : List Word)
  | infinite (ws : Nat → Word)

/-- The first `n` words, or all of them where there are fewer. -/
def WordSequence.take : WordSequence → Nat → List Word
  | .finite ws, n => ws.take n
  | .infinite ws, n => (List.range n).map ws

/-- The sequence has a word number `n`, counted from 0. -/
def WordSequence.has : WordSequence → Nat → Prop
  | .finite ws, n => n < ws.length
  | .infinite _, _ => True

/-- A run of the block: its first word has RST = 1 (rule R131). -/
def WordSequence.isRun (seq : WordSequence) : Bool := Machine.isRun (seq.take 1)

/-- STATE and the host result registers after word number `n` of a sequence presented to a block in `s`; none
where the sequence is shorter or a word up to there is reserved (rule R131). -/
def WordSequence.visibleAt (seq : WordSequence) (s : State) (n : Nat) : Option Visible :=
  (visibleTrace (seq.take (n + 1)) s)[n]?

end Sys2Proof.Machine
end

