-- ==== Sys2Proof/Safety.lean ====
section
/-! DEFINITION. The terms claims use: the invariants of 10_state.md rules R22 and R23 with the registers'
widths, and the assumptions on the environment that 60_exceptions.md R102 and 70_reset_and_hazards.md R122,
R123, R127 name, none of them enforced by the machine or built into it, and claims about runs (R131). -/

namespace Sys2Proof.Machine

/-- All five timestamps are unset. -/
abbrev State.stampsUnset (s : State) : Prop :=
  s.c1 = none ∧ s.c2 = none ∧ s.c3 = none ∧ s.d1 = none ∧ s.d2 = none

/-- The block at rest: Idle with no working timestamp set, the negation of the watchdog's `busy`. -/
abbrev State.atRest (s : State) : Prop := s.state = .idle ∧ s.stampsUnset

/-- The invariants that hold between operations. The letters are those of 10_state.md rule R23; rule R22 (c)
is `idle_frame` and `idle_c2`. Of the model's own finding: `cfg_wf`, `received_format`, and the forms of the
two arrays. -/
structure Inv (s : State) : Prop where
  /-- The configuration meets what the spec asks of it. -/
  cfg_wf : s.cfg.wf
  /-- (a) BITCOUNT ≤ CAP_BITS. -/
  count_le : s.bitCount ≤ s.cfg.capBits
  /-- (b) -/
  receiving_format : s.state = .receiving → s.format = .nec ∨ s.format = .aeha ∨ s.format = .sony
  receiving_stamps : s.state = .receiving → s.c1.isSome ∧ s.c2.isSome
  receiving_leader : s.state = .receiving → s.format = .nec ∨ s.format = .aeha → s.c3.isSome
  /-- (c) -/
  received_unset : s.state = .received → s.stampsUnset ∧ s.tmoArmed = false
  received_format : s.state = .received → s.format ≠ .unknown
  /-- (d) -/
  armed : s.tmoArmed = true →
    s.state = .receiving ∧ 1 ≤ s.bitCount ∧ 1 ≤ s.tmoCnt ∧ s.tmoCnt ≤ s.cfg.tmoMax
  disarmed : s.tmoArmed = false → s.tmoCnt = 0
  /-- (e) -/
  stopped : s.run = false → s.elapsed = 0 ∧ s.state = .idle ∧ s.stampsUnset
  started : s.c1.isSome → s.run = true
  /-- 41_idle_edges.md rules R67, R70: Idle with T[c1] unset is the FullReset state. -/
  rest_stopped : s.state = .idle → s.c1 = none → s.run = false
  /-- R67: T[c1] is always set(0). -/
  c1_zero : ∀ t, s.c1 = some t → t = 0
  /-- (f) The leader's timestamps are in order of time, and none is later than ELAPSED. -/
  order_c1_c2 : ∀ t u, s.c1 = some t → s.c2 = some u → t ≤ u
  order_c2_c3 : ∀ t u, s.c2 = some t → s.c3 = some u → t ≤ u
  stamp_le_elapsed : ∀ k t, s.stamp k = some t → t ≤ s.elapsed
  /-- (g) -/
  repeat_frame : s.format = .necRepeat ∨ s.format = .aehaRepeat → s.state = .received ∧ s.bitCount = 0
  /-- (h) Bits of BITS at positions ≥ BITCOUNT are 0. -/
  tail_zero : ∀ i, s.bitCount ≤ i → s.bits.bit i = false
  /-- R22 (c) -/
  idle_frame : s.state = .idle →
    s.format = .unknown ∧ s.bitCount = 0 ∧ (∀ j, s.bits.read j = 0) ∧
      s.c3 = none ∧ s.d1 = none ∧ s.d2 = none ∧ s.tmoArmed = false
  idle_c2 : s.state = .idle → s.c2.isSome → s.c1.isSome
  /-- Widths: ELAPSED in W_T bits (and with it every timestamp), WDCNT at most WD_THRESHOLD (R17), OUTCNT and
  RET_VAL at most CAP_BITS and so in W_BC bits. -/
  elapsed_width : s.elapsed < 2 ^ s.cfg.wT
  wdCnt_le : s.wdCnt ≤ s.cfg.wdThreshold
  outCnt_le : s.outCnt ≤ s.cfg.capBits
  retVal_le : s.retVal ≤ s.cfg.capBits
  /-- Nothing is stored at or beyond CAP_BYTES (20_memory.md rules R30, R32), and both arrays are canonical. -/
  outBuf_bound : ∀ j, s.cfg.capBytes ≤ j → s.outBuf.read j = 0
  bits_wf : s.bits.wf
  outBuf_wf : s.outBuf.wf

/-! ### Assumptions on the environment, for the claims that need them -/

/-- No reserved word is presented (70_reset_and_hazards.md rule R127). -/
def noReservedWord (ws : List Word) : Bool := ws.all fun w => (decode w).toBool

/-- The operations a list of words requests, in order; a reserved word requests none. -/
def opsOf (ws : List Word) : List Instr :=
  ws.flatMap fun w => match decode w with
    | .ok ops => ops
    | .error _ => []

/-- The edges of a sequence of operations, in order. -/
def edgesOf (ops : List Instr) : List Instr := ops.filter fun i => i == .fall || i == .rise

/-- FALL and RISE alternate (60_exceptions.md rule R102: "edges of one digital line"). -/
def edgesAlternate (ops : List Instr) : Bool :=
  decide ((edgesOf ops).IsChain (· ≠ ·))

/-- WDT arrives once per WD_PERIOD, that is once per 1000·WD_PERIOD TICKs (rule R102): `gap` TICKs have passed
since the last one. The phase of the first is free. -/
def wdtRegular (c : Config) : List Instr → Nat → Bool
  | [], _ => true
  | .tick :: rest, gap => decide (gap < 1000 * c.wdPeriod) && wdtRegular c rest (gap + 1)
  | .wdt :: rest, gap => decide (gap = 1000 * c.wdPeriod) && wdtRegular c rest 0
  | _ :: rest, gap => wdtRegular c rest gap

/-- GETDATA is requested only in Received (70_reset_and_hazards.md rule R123). -/
def consumesOnlyReceived : List Instr → State → Bool
  | [], _ => true
  | i :: rest, s =>
    (match i with
      | .getdata _ => decide (s.state = .received)
      | _ => true) &&
    match exec i s with
    | .next t => consumesOnlyReceived rest t
    | .fault _ => true
    | .refused _ => true

/-- The host consumes in time (70_reset_and_hazards.md rule R122): no WDT finds the block in Received with the
count at its threshold. -/
def consumesInTime : List Instr → State → Bool
  | [], _ => true
  | i :: rest, s =>
    (match i with
      | .wdt => !(decide (s.state = .received) && s.wdExceeds)
      | _ => true) &&
    match exec i s with
    | .next t => consumesInTime rest t
    | .fault _ => true
    | .refused _ => true

/-! ### Claims about runs (70_reset_and_hazards.md rule R131) -/

/-- An assumption that is checked on finite lists of words, made of a whole sequence: every beginning of it
meets the check. -/
def WordSequence.meets (seq : WordSequence) (check : List Word → Bool) : Prop :=
  ∀ n, check (seq.take n) = true

/-- A claim about the block (rule R131): for every run, finite or infinite, that satisfies `env`, after word
number `n` the visible registers satisfy `post`. Nothing is assumed of the registers before the run's first
word (93_implementation_defined.md U5). -/
def runClaim (c : Config) (env : WordSequence → Prop) (post : WordSequence → Nat → Visible → Prop) : Prop :=
  ∀ (seq : WordSequence) (s : State), seq.isRun = true → env seq → s.cfg = c → s.inputs = [] →
    ∀ n v, seq.visibleAt s n = some v → post seq n v

end Sys2Proof.Machine
end

