-- ==== Sys2Proof/Certificates/Slice0/Obligations.lean ====
section
/-! DEFINITION. The statements for the provers. Each docstring names the rule of spec/ it formalises, or
says that it is derived. Wherever a state's parameters are not fixed by a hypothesis, the statement holds for
every configuration record (the model holds it in State: notes/assumptions/1.md). -/

open Sys2Proof Sys2Proof.Machine

/-! ### Encoding -/

/-- Derived (30_encoding.md sections 3, 7): every list of operations that one word can request, GETDATA with
each of the 65536 values of MAXBITS, is decoded back from the word it is assembled to. -/
def Obligations.DecodeOfEncodedBundle : Prop :=
  ∀ ops : Bundle, ops.wf = true → decode (encodeBundle ops) = .ok ops

/-- Derived (30_encoding.md sections 3, 7): whatever a word decodes to is a well-formed bundle, and
assembling it gives the word back, up to the bits the decoder ignores: all but bit 6 when RST = 1, MAXBITS when
HOP ≠ 2. -/
def Obligations.DecodedBundleReassembles : Prop :=
  ∀ (w : Word) (ops : Bundle), decode w = .ok ops →
    ops.wf = true ∧
    encodeBundle ops =
      if w.getLsbD 6 then 0x00000040#32
      else if w.extractLsb' 4 2 = 2#2 then w
      else w &&& 0x0000FFFF#32

/-- R42: decode(INP), test by test in the rule's order, and the execution of the decoded operations one after
another, each on the state the one before it left, all in the one step that samples the word. -/
def Obligations.WordIsAnOrderedBundle : Prop :=
  (∀ w : Word, decode w =
    if w.getLsbD 6 then .ok [.rst]
    else if w.extractLsb' 7 9 ≠ 0#9 then .error .zeroBits
    else if w.getLsbD 1 = true ∧ w.getLsbD 2 = true then .error .bothEdges
    else if w.extractLsb' 4 2 = 3#2 then .error .hostOp3
    else if w.extractLsb' 0 6 = 0#6 then .ok [.nop]
    else .ok ((if w.getLsbD 0 then [.tick] else []) ++ (if w.getLsbD 1 then [.fall] else [])
      ++ (if w.getLsbD 2 then [.rise] else []) ++ (if w.getLsbD 3 then [.wdt] else [])
      ++ (if w.extractLsb' 4 2 = 1#2 then [.getstate] else [])
      ++ (if w.extractLsb' 4 2 = 2#2 then [.getdata (w.extractLsb' 16 16)] else []))) ∧
  (∀ (s : State) (w : Word) (rest : List Word) (ops : Bundle), s.inputs = w :: rest → decode w = .ok ops →
    step s = execAll ops { s with inputs := rest }) ∧
  (∀ s : State, execAll [] s = .next s) ∧
  (∀ (i : Instr) (ops : List Instr) (s t : State), exec i s = .next t → execAll (i :: ops) s = execAll ops t)

/-- R43: the three classes of reserved words, exactly; the step refuses such a word; MAXBITS with HOP ≠ 2 is
ignored. -/
def Obligations.ReservedWordsAreRefused : Prop :=
  (∀ w : Word, (∃ why, decode w = .error why) ↔
    w.getLsbD 6 = false ∧
      ((w.getLsbD 1 = true ∧ w.getLsbD 2 = true) ∨ w.extractLsb' 4 2 = 3#2 ∨ w.extractLsb' 7 9 ≠ 0#9)) ∧
  (∀ (s : State) (w : Word) (rest : List Word) (why : ReservedClass), s.inputs = w :: rest →
    decode w = .error why → step s = .refused (.reservedWord why w)) ∧
  (∀ w : Word, w.extractLsb' 4 2 ≠ 2#2 → decode w = decode (w &&& 0x0000FFFF#32))

/-- R44: for a legal word, each row's operation is in the bundle exactly when INP & mask = match, with the
masks and matches of the rule's table, the operand of GETDATA and the requester of each row. -/
def Obligations.TableRowsSelectTheOperations : Prop :=
  (∀ (w : Word) (ops : Bundle), decode w = .ok ops →
    (.rst ∈ ops ↔ w &&& 0x00000040#32 = 0x00000040#32) ∧
    (.nop ∈ ops ↔ w &&& 0x0000FFFF#32 = 0x00000000#32) ∧
    (.tick ∈ ops ↔ w &&& 0x0000FFC1#32 = 0x00000001#32) ∧
    (.fall ∈ ops ↔ w &&& 0x0000FFC6#32 = 0x00000002#32) ∧
    (.rise ∈ ops ↔ w &&& 0x0000FFC6#32 = 0x00000004#32) ∧
    (.wdt ∈ ops ↔ w &&& 0x0000FFC8#32 = 0x00000008#32) ∧
    (.getstate ∈ ops ↔ w &&& 0x0000FFF0#32 = 0x00000010#32) ∧
    (∀ m : BitVec 16, .getdata m ∈ ops ↔ w &&& 0x0000FFF0#32 = 0x00000020#32 ∧ m = w.extractLsb' 16 16)) ∧
  (Instr.requester .rst = .platform ∧ Instr.requester .nop = .nobody ∧ Instr.requester .tick = .timeBase ∧
    Instr.requester .fall = .edgeSource ∧ Instr.requester .rise = .edgeSource ∧
    Instr.requester .wdt = .periodicTicker ∧ Instr.requester .getstate = .host ∧
    ∀ m, Instr.requester (.getdata m) = .host)

/-- Derived (95_test_vectors.md V1): a few words, written out from 30_encoding.md section 5, decode to the
operations they stand for. -/
def Obligations.SampleWordsDecode : Prop :=
  decode 0x00000040#32 = .ok [.rst] ∧ decode 0x00000000#32 = .ok [.nop] ∧ decode 0x00000001#32 = .ok [.tick] ∧
  decode 0x00000002#32 = .ok [.fall] ∧ decode 0x00000004#32 = .ok [.rise] ∧ decode 0x00000008#32 = .ok [.wdt] ∧
  decode 0x00000010#32 = .ok [.getstate] ∧ decode 0x00200020#32 = .ok [.getdata 32] ∧
  decode 0x0000001D#32 = .ok [.tick, .rise, .wdt, .getstate] ∧
  decode 0xFFFF007F#32 = .ok [.rst] ∧ decode 0x12340001#32 = .ok [.tick]

/-- R45: the numbers of the two enumerations. -/
def Obligations.EnumerationNumbers : Prop :=
  DecoderState.code .idle = 0 ∧ DecoderState.code .receiving = 1 ∧ DecoderState.code .received = 2 ∧
  ProtocolFormat.code .unknown = 0 ∧ ProtocolFormat.code .nec = 1 ∧ ProtocolFormat.code .necRepeat = 2 ∧
  ProtocolFormat.code .aeha = 3 ∧ ProtocolFormat.code .aehaRepeat = 4 ∧ ProtocolFormat.code .sony = 5

/-- R48: the words each pseudo-operation assembles to. -/
def Obligations.PseudoOperationsExpand : Prop :=
  let ticks := fun n => List.replicate n 0x00000001#32
  (∀ n, assemble [.adv n] = ticks n) ∧
  (∀ n, assemble [.mark n] = 0x00000002#32 :: ticks n) ∧
  (∀ n, assemble [.space n] = 0x00000004#32 :: ticks n) ∧
  (∀ m n, assemble [.rf m n] = ticks m ++ [0x00000004#32] ++ ticks n ++ [0x00000002#32]) ∧
  (∀ m n, assemble [.fr m n] = ticks m ++ [0x00000002#32] ++ ticks n ++ [0x00000004#32]) ∧
  (∀ n, assemble [.wdts n] = (List.replicate n (ticks 10000 ++ [0x00000008#32])).flatten)

/-- Derived (30_encoding.md section 6): the input pins carry the fields of INP, bits 15:7 are 0, so pins never
present a word of class (c); the output pins show the visible registers, OUTBUF byte j in bits 8j+7:8j. -/
def Obligations.PinsCarryTheWordAndTheOutputs : Prop :=
  (∀ p : InputPins, p.word.getLsbD 0 = p.usTick ∧ p.word.getLsbD 1 = p.fallEvt ∧ p.word.getLsbD 2 = p.riseEvt ∧
    p.word.getLsbD 3 = p.wdTick ∧ p.word.extractLsb' 4 2 = p.hostOp ∧ p.word.getLsbD 6 = p.rst ∧
    p.word.extractLsb' 7 9 = 0#9 ∧ p.word.extractLsb' 16 16 = p.hostMaxbits) ∧
  (∀ s : State, s.outputPins.stateO.toNat = s.state.code ∧ s.outputPins.outFmt.toNat = s.outFmt.code ∧
    s.outputPins.retErr = s.retErr ∧ s.outputPins.retVal = s.retVal ∧ s.outputPins.outCnt = s.outCnt ∧
    ∀ j < s.cfg.capBytes, s.outputPins.outBuf / 2 ^ (8 * j) % 256 = (s.outBuf.read j).toNat)

/-! ### The step -/

/-- Derived (30_encoding.md section 3): when the word of the coming cycle decodes to one operation, the step
is that operation, on the state from which the word has been taken. The queue of words is the model's
(notes/assumptions/2.md). -/
def Obligations.StepRunsTheDecodedOperation : Prop :=
  ∀ (s : State) (w : Word) (rest : List Word) (i : Instr), s.inputs = w :: rest → decode w = .ok [i] →
    step s = exec i { s with inputs := rest }

/-- Derived (30_encoding.md sections 5, 7): presenting the word of an operation makes the very next step that
operation, and nothing else in the state changes for it. -/
def Obligations.PresentedOperationRunsNext : Prop :=
  ∀ (i : Instr) (s : State), step (s.withFetchWord 32 (encode i).toNat) = exec i s

/-- Derived, the model's choice (notes/assumptions/2.md, from 30_encoding.md section 5, row NOP): when nobody
presents a word the cycle is idle and changes nothing. -/
def Obligations.IdleCycleChangesNothing : Prop :=
  ∀ s : State, s.inputs = [] → step s = .next s

/-- Derived (60_exceptions.md section 1, R101's "total on every reachable state"): a step answers a next state
unless the word it samples is reserved. That a step takes the head of the queue of words, and leaves an empty
queue empty, is the model's choice (notes/assumptions/2.md). -/
def Obligations.StepCompletesUnlessReserved : Prop :=
  (∀ s : State, (∃ t, step s = .next t) ∨
    ∃ w rest why, s.inputs = w :: rest ∧ decode w = .error why ∧ step s = .refused (.reservedWord why w)) ∧
  (∀ s t : State, step s = .next t → t.inputs = s.inputs.tail)

/-! ### The classifier and the timestamps -/

/-- R50: the nominal durations, the timeouts and the noise floor at the default parameters. -/
def Obligations.NominalDurations : Prop :=
  let c := Config.default
  c.tuNec = 562 ∧ c.tuAeha = 425 ∧ c.tuSony = 600 ∧
  c.nNecMark = 8992 ∧ c.nNecrMark = 8992 ∧ c.nNecSpace = 4496 ∧ c.nNecrSpace = 2248 ∧ c.nAehaMark = 3400 ∧
  c.nAeharMark = 3400 ∧ c.nAehaSpace = 1700 ∧ c.nAeharSpace = 3400 ∧ c.nSonyLeader = 2400 ∧
  c.nBit1 c.tuNec = 1686 ∧ c.nBit0 c.tuNec = 562 ∧ c.nBit1 c.tuAeha = 1275 ∧ c.nBit0 c.tuAeha = 425 ∧
  c.nSony1 = 1200 ∧ c.nSony0 = 600 ∧ c.tmoNec = 2810 ∧ c.tmoAeha = 2125 ∧ c.tmoSony = 2400 ∧ c.minLeader = 150

/-- R51: inRange is the open band 0.7·N < x < 1.3·N in exact rationals, as the integer comparison
7·N < 10·x and 10·x < 13·N, and false of `none`. -/
def Obligations.InRangeIsTheOpenBand : Prop :=
  ∀ (c : Config) (x n : Nat), c.tolLoNum = 7 → c.tolLoDen = 10 → c.tolHiNum = 13 → c.tolHiDen = 10 →
    (inRange c (some x) n = true ↔ (7 / 10 : ℚ) * n < x ∧ (x : ℚ) < 13 / 10 * n) ∧
    (inRange c (some x) n = true ↔ 7 * n < 10 * x ∧ 10 * x < 13 * n) ∧
    inRange c none n = false

/-- Derived (40_primitives.md section 2, R52): the integers each nominal accepts, and that the bands of a
protocol's two bits are disjoint, at the default tolerance. -/
def Obligations.AcceptedIntervals : Prop :=
  let ok := fun (x n : Nat) => inRange Config.default (some x) n = true
  (∀ x, ok x 8992 ↔ 6295 ≤ x ∧ x ≤ 11689) ∧ (∀ x, ok x 4496 ↔ 3148 ≤ x ∧ x ≤ 5844) ∧
  (∀ x, ok x 2248 ↔ 1574 ≤ x ∧ x ≤ 2922) ∧ (∀ x, ok x 1686 ↔ 1181 ≤ x ∧ x ≤ 2191) ∧
  (∀ x, ok x 562 ↔ 394 ≤ x ∧ x ≤ 730) ∧ (∀ x, ok x 3400 ↔ 2381 ≤ x ∧ x ≤ 4419) ∧
  (∀ x, ok x 1700 ↔ 1191 ≤ x ∧ x ≤ 2209) ∧ (∀ x, ok x 1275 ↔ 893 ≤ x ∧ x ≤ 1657) ∧
  (∀ x, ok x 425 ↔ 298 ≤ x ∧ x ≤ 552) ∧ (∀ x, ok x 2400 ↔ 1681 ≤ x ∧ x ≤ 3119) ∧
  (∀ x, ok x 1200 ↔ 841 ≤ x ∧ x ≤ 1559) ∧ (∀ x, ok x 600 ↔ 421 ≤ x ∧ x ≤ 779) ∧
  (∀ x, ¬(ok x 1686 ∧ ok x 562) ∧ ¬(ok x 1275 ∧ ok x 425) ∧ ¬(ok x 1200 ∧ ok x 600))

/-- Derived (40_primitives.md R53, 10_state.md R23 (f)): diff is a number exactly when both timestamps are set,
and in a state that meets the invariant no subtraction the rules perform underflows: adding the subtrahend
back gives the minuend. The bit-decoding edge stamps T[d2] first, the second falling edge T[c3], the rising
edge of a leader T[c2]; the second falling edge also takes c2 − c1 with T[c2] stamped at an earlier edge. -/
def Obligations.DifferencesNeverUnderflow : Prop :=
  (∀ (s : State) (p q : Stamp), (s.diff p q).isSome = (s.valid p && s.valid q)) ∧
  (∀ (s : State) (p q : Stamp), Inv s →
    (p, q) = (.c2, .c1) ∨ (p, q) = (.c3, .c2) ∨ (p, q) = (.d2, .d1) →
    ∀ u v, (s.stampNow p).diff p q = some u → s.stamp q = some v →
      u + v = s.elapsed ∧ u ≤ 2 ^ s.cfg.wT - 1) ∧
  (∀ (s : State) (u v w : Nat), Inv s → (s.stampNow .c3).diff .c2 .c1 = some u →
    s.stamp .c1 = some v → s.stamp .c2 = some w → u + v = w ∧ u ≤ 2 ^ s.cfg.wT - 1)

/-! ### The micro-operations -/

/-- R54, R55: ClearTs unsets the five timestamps and CancelTimeout disarms the timeout; neither writes
anything else. -/
def Obligations.ClearTsAndCancelTimeout : Prop :=
  ∀ s : State,
    s.clearTs = { s with c1 := none, c2 := none, c3 := none, d1 := none, d2 := none } ∧
    s.clearTs.anyStamp = false ∧
    s.cancelTimeout = { s with tmoArmed := false, tmoCnt := 0 } ∧
    (s.tmoArmed = false → s.tmoCnt = 0 → s.cancelTimeout = s)

/-- R56: ArmTimeout(d) overwrites the one pending count, and the firing is at the d-th TICK after it: while
fewer TICKs have passed the count is d less their number and the block is still in Receiving, and after the
d-th it is in Received with nothing pending. -/
def Obligations.ArmedTimeoutFiresAtTheDthTick : Prop :=
  ∀ (s : State) (d : Nat), 1 ≤ d →
    s.armTimeout d = { s with tmoCnt := d, tmoArmed := true } ∧
    (s.state = .receiving →
      (∀ k < d, ∃ t, execAll (List.replicate k .tick) (s.armTimeout d) = .next t ∧
        t.state = .receiving ∧ t.tmoArmed = true ∧ t.tmoCnt = d - k) ∧
      ∃ t, execAll (List.replicate d .tick) (s.armTimeout d) = .next t ∧
        t.state = .received ∧ t.tmoArmed = false ∧ t.tmoCnt = 0 ∧ t.stampsUnset ∧
        t.format = s.format ∧ t.bitCount = s.bitCount ∧ t.bits = s.bits)

/-- R57: FullReset, every register it writes and every register it leaves; it is idempotent. -/
def Obligations.FullResetValues : Prop :=
  ∀ s : State,
    (s.fullReset.state = .idle ∧ s.fullReset.format = .unknown ∧ s.fullReset.bitCount = 0 ∧
      (∀ j, s.fullReset.bits.read j = 0) ∧ s.fullReset.stampsUnset ∧ s.fullReset.tmoCnt = 0 ∧
      s.fullReset.tmoArmed = false ∧ s.fullReset.run = false ∧ s.fullReset.elapsed = 0) ∧
    (s.fullReset.wdCnt = s.wdCnt ∧ s.fullReset.outFmt = s.outFmt ∧ s.fullReset.outCnt = s.outCnt ∧
      s.fullReset.outBuf = s.outBuf ∧ s.fullReset.retErr = s.retErr ∧ s.fullReset.retVal = s.retVal ∧
      s.fullReset.cfg = s.cfg ∧ s.fullReset.inputs = s.inputs) ∧
    s.fullReset.fullReset = s.fullReset

/-- R58: AppendBit. Below the capacity the bit at position BITCOUNT becomes 1, 0, or keeps its value, every
other frame bit stays, BITCOUNT advances by one; at the capacity nothing is written. No other register is
written. An ambiguous interval signals AmbiguousBitTiming, a full buffer FrameOverflow. -/
def Obligations.AppendBitWritesOneBit : Prop :=
  ∀ (s : State) (m : BitClass),
    (s.bitCount < 8 * s.cfg.capBytes →
      (s.appendBit m).bitCount = s.bitCount + 1 ∧
      (s.appendBit m).bits.bit s.bitCount = (match m with
        | .one => true
        | .zero => false
        | .noMatch => s.bits.bit s.bitCount) ∧
      (∀ i, i ≠ s.bitCount → (s.appendBit m).bits.bit i = s.bits.bit i)) ∧
    (8 * s.cfg.capBytes ≤ s.bitCount → s.appendBit m = s) ∧
    s.appendBit m = { s with bits := (s.appendBit m).bits, bitCount := (s.appendBit m).bitCount } ∧
    (.ambiguousBitTiming ∈ appendSignals s m ↔ m = .noMatch) ∧
    (.frameOverflow ∈ appendSignals s m ↔ 8 * s.cfg.capBytes ≤ s.bitCount)

/-- Derived (20_memory.md section 2, R31): a frame's bits are packed least significant bit first, in order of
arrival: after any list of intervals that fits, from an empty frame, bit i of the frame stands in byte
i div 8 at position i mod 8 and is 1 exactly when the i-th interval was classified as 1. -/
def Obligations.BitsArePackedLsbFirst : Prop :=
  ∀ (s : State) (ms : List BitClass), s.bitCount = 0 → (∀ j, s.bits.read j = 0) →
    ms.length ≤ 8 * s.cfg.capBytes →
    (ms.foldl State.appendBit s).bitCount = ms.length ∧
    ∀ i, ((ms.foldl State.appendBit s).bits.read (i / 8)).getLsbD (i % 8) = decide (ms[i]? = some .one)

/-! ### RST, NOP, TICK, WDT -/

/-- R59: NOP changes no register, and its word is 0. -/
def Obligations.NopChangesNothing : Prop :=
  decode 0x00000000#32 = .ok [.nop] ∧ ∀ s : State, exec .nop s = .next s

/-- R24, R60: RST gives every register its reset value, whatever the state, and its word is any with bit 6
set; the model's reset state is that state (with the default parameters and no word presented). -/
def Obligations.RstGivesEveryRegisterItsResetValue : Prop :=
  (∀ w : Word, w.getLsbD 6 = true → decode w = .ok [.rst]) ∧
  (∀ s : State, exec .rst s = .next
    { cfg := s.cfg, inputs := s.inputs, state := .idle, format := .unknown, bitCount := 0, bits := [],
      c1 := none, c2 := none, c3 := none, d1 := none, d2 := none, elapsed := 0, run := false, tmoCnt := 0,
      tmoArmed := false, wdCnt := 0, outFmt := .unknown, outCnt := 0, outBuf := [], retErr := false,
      retVal := 0 }) ∧
  (∀ j, Memory.read [] j = 0) ∧
  (∀ s : State, exec .rst s = .next { State.reset with cfg := s.cfg, inputs := s.inputs })

/-- R85, R86: TICK. ELAPSED counts while RUN = 1 and saturates at 2^W_T − 1; an armed timeout counts down; on
reaching 0 it is disarmed and, in Receiving, STATE becomes Received and the timestamps are cleared; outside
Receiving the firing changes nothing more. No other register changes. -/
def Obligations.TickCountsAndFires : Prop :=
  ∀ s : State, exec .tick s = .next
    (let e := if s.run = true ∧ s.elapsed < 2 ^ s.cfg.wT - 1 then s.elapsed + 1 else s.elapsed
     if s.tmoArmed = false then { s with elapsed := e }
     else if 1 < s.tmoCnt then { s with elapsed := e, tmoCnt := s.tmoCnt - 1 }
     else if s.state = .receiving then
       { s with elapsed := e, tmoCnt := 0, tmoArmed := false, state := .received,
                c1 := none, c2 := none, c3 := none, d1 := none, d2 := none }
     else { s with elapsed := e, tmoCnt := 0, tmoArmed := false })

/-- R90: WDT. Busy is STATE ≠ Idle or some timestamp set; the count is incremented, then compared; above
WD_THRESHOLD StuckState is signalled, FullReset performed and the count zeroed; an idle block zeroes it. -/
def Obligations.WatchdogCountsAndForcesReset : Prop :=
  ∀ s : State,
    (s.state ≠ .idle ∨ ¬s.stampsUnset →
      (s.wdCnt + 1 ≤ s.cfg.wdThreshold →
        exec .wdt s = .next { s with wdCnt := s.wdCnt + 1 } ∧ signals .wdt s = []) ∧
      (s.cfg.wdThreshold < s.wdCnt + 1 →
        exec .wdt s = .next { s.fullReset with wdCnt := 0 } ∧ signals .wdt s = [.stuckState])) ∧
    (s.state = .idle → s.stampsUnset → exec .wdt s = .next { s with wdCnt := 0 } ∧ signals .wdt s = [])

/-! ### The edges -/

/-- R67: the first falling edge in Idle starts the clock and stamps T[c1]; STATE and every other register
stay. -/
def Obligations.FirstFallStartsALeader : Prop :=
  ∀ s : State, s.state = .idle → s.c1 = none →
    exec .fall s = .next { s with run := true, c1 := some s.elapsed } ∧ signals .fall s = []

/-- R68: the second falling edge in Idle stamps T[c3] and classifies the pair (mark, space): the four leaders
in the rule's order, else ProtocolMismatch and FullReset. A mark or space that needs an unset T[c2] is none. -/
def Obligations.SecondFallClassifiesTheLeader : Prop :=
  ∀ (s : State) (t1 : Nat), s.state = .idle → s.c1 = some t1 →
    let s1 := { s with c3 := some s.elapsed }
    let a := s.c2.map fun t2 => t2 - t1
    let b := s.c2.map fun t2 => s.elapsed - t2
    let hit := fun (x : Option Nat) (k tu : Nat) => inRange s.cfg x (k * tu) = true
    let nec := hit a s.cfg.kNecMark s.cfg.tuNec ∧ hit b s.cfg.kNecSpace s.cfg.tuNec
    let necR := hit a s.cfg.kNecrMark s.cfg.tuNec ∧ hit b s.cfg.kNecrSpace s.cfg.tuNec
    let aeha := hit a s.cfg.kAehaMark s.cfg.tuAeha ∧ hit b s.cfg.kAehaSpace s.cfg.tuAeha
    let aehaR := hit a s.cfg.kAeharMark s.cfg.tuAeha ∧ hit b s.cfg.kAeharSpace s.cfg.tuAeha
    (nec → exec .fall s = .next { s1 with format := .nec, state := .receiving, bitCount := 0 }) ∧
    (¬nec → necR → exec .fall s = .next
      { s with format := .necRepeat, state := .received, bitCount := 0,
               c1 := none, c2 := none, c3 := none, d1 := none, d2 := none }) ∧
    (¬nec → ¬necR → aeha → exec .fall s = .next { s1 with format := .aeha, state := .receiving, bitCount := 0 }) ∧
    (¬nec → ¬necR → ¬aeha → aehaR → exec .fall s = .next
      { s with format := .aehaRepeat, state := .received, bitCount := 0,
               c1 := none, c2 := none, c3 := none, d1 := none, d2 := none }) ∧
    (¬nec → ¬necR → ¬aeha → ¬aehaR → exec .fall s = .next s.fullReset ∧ signals .fall s = [.protocolMismatch]) ∧
    (nec ∨ necR ∨ aeha ∨ aehaR → signals .fall s = [])

/-- R69: a rising edge in Idle with T[c1] set stamps T[c2]; the SONY leader is tried first, then the noise floor
MIN_LEADER; otherwise the block waits in Idle. -/
def Obligations.RiseInIdleTriesSonyThenNoise : Prop :=
  ∀ (s : State) (t1 : Nat), s.state = .idle → s.c1 = some t1 →
    let s1 := { s with c2 := some s.elapsed }
    let a := s.elapsed - t1
    let sony := inRange s.cfg (some a) (s.cfg.kSonyLeader * s.cfg.tuSony) = true
    (sony → exec .rise s = .next { s1 with format := .sony, state := .receiving, bitCount := 0 } ∧
      signals .rise s = []) ∧
    (¬sony → a < s.cfg.minLeader → exec .rise s = .next s.fullReset ∧ signals .rise s = [.protocolMismatch]) ∧
    (¬sony → s.cfg.minLeader ≤ a → exec .rise s = .next s1 ∧ signals .rise s = [])

/-- Derived (41_idle_edges.md section 3, R70): a stray rising edge performs FullReset and signals nothing, and
in a state that meets the invariant it changes no register. -/
def Obligations.StrayRiseChangesNothing : Prop :=
  ∀ s : State, s.state = .idle → s.c1 = none →
    exec .rise s = .next s.fullReset ∧ signals .rise s = [] ∧ (Inv s → exec .rise s = .next s)

/-- R75: the falling edge of NEC and AEHA stamps T[d2], classifies d2 − d1 as 1, 0 or ambiguous, appends it and
re-arms the timeout in every case. -/
def Obligations.FallDecodesASpace : Prop :=
  ∀ (s : State) (tu tmo : Nat), s.state = .receiving →
    (s.format = .nec ∧ tu = s.cfg.tuNec ∧ tmo = s.cfg.tmoNec) ∨
      (s.format = .aeha ∧ tu = s.cfg.tuAeha ∧ tmo = s.cfg.tmoAeha) →
    let s1 := { s with d2 := some s.elapsed }
    let x := s.d1.map fun t => s.elapsed - t
    let m : BitClass := if inRange s.cfg x (s.cfg.kBit1 * tu) then .one
      else if inRange s.cfg x (s.cfg.kBit0 * tu) then .zero
      else .noMatch
    exec .fall s = .next { s1.appendBit m with tmoCnt := tmo, tmoArmed := true } ∧
    signals .fall s = (if m = .noMatch then [.ambiguousBitTiming] else [])
      ++ (if s.bitCount < 8 * s.cfg.capBytes then [] else [.frameOverflow])

/-- R78: the rising edge of SONY, likewise, with the SONY bands and TMO_SONY. -/
def Obligations.RiseDecodesASonyMark : Prop :=
  ∀ s : State, s.state = .receiving → s.format = .sony →
    let s1 := { s with d2 := some s.elapsed }
    let x := s.d1.map fun t => s.elapsed - t
    let m : BitClass := if inRange s.cfg x (s.cfg.kSonyBit1 * s.cfg.tuSony) then .one
      else if inRange s.cfg x (s.cfg.kSonyBit0 * s.cfg.tuSony) then .zero
      else .noMatch
    exec .rise s = .next { s1.appendBit m with tmoCnt := s.cfg.tmoSony, tmoArmed := true } ∧
    signals .rise s = (if m = .noMatch then [.ambiguousBitTiming] else [])
      ++ (if s.bitCount < 8 * s.cfg.capBytes then [] else [.frameOverflow])

/-- R76, R77: the other edge of a data bit stamps T[d1] and does nothing else: RISE for NEC and AEHA, FALL for
SONY. -/
def Obligations.NonDecodingEdgeStampsD1 : Prop :=
  ∀ s : State, s.state = .receiving →
    (s.format = .nec ∨ s.format = .aeha → exec .rise s = .next { s with d1 := some s.elapsed }) ∧
    (s.format = .sony → exec .fall s = .next { s with d1 := some s.elapsed })

/-- R79, R80: in Received, and in Receiving with a format that is not received, edges change no register and
signal nothing. -/
def Obligations.EdgesIgnored : Prop :=
  ∀ (s : State) (i : Instr), i = .fall ∨ i = .rise →
    s.state = .received ∨
      (s.state = .receiving ∧ s.format ≠ .nec ∧ s.format ≠ .aeha ∧ s.format ≠ .sony) →
    exec i s = .next s ∧ signals i s = []

/-- Derived (41_idle_edges.md section 4, R71): the decision table of Idle at the default parameters, in
microseconds, for a state that meets the invariant, `m` the time of the first mark's end. -/
def Obligations.IdleDecisionTable : Prop :=
  ∀ s : State, Inv s → s.cfg = Config.default → s.state = .idle → s.c1.isSome →
    (∃ t, exec .rise s = .next t ∧
      (t.state, t.format) =
        if 1681 ≤ s.elapsed ∧ s.elapsed ≤ 3119 then (.receiving, .sony) else (.idle, .unknown)) ∧
    (s.elapsed ≤ 149 → exec .rise s = .next s.fullReset) ∧
    (s.c2 = none → exec .fall s = .next s.fullReset) ∧
    (∀ m, s.c2 = some m → ∃ t, exec .fall s = .next t ∧
      (t.state, t.format) =
        let b := s.elapsed - m
        if 6295 ≤ m ∧ m ≤ 11689 ∧ 3148 ≤ b ∧ b ≤ 5844 then (.receiving, .nec)
        else if 6295 ≤ m ∧ m ≤ 11689 ∧ 1574 ≤ b ∧ b ≤ 2922 then (.received, .necRepeat)
        else if 2381 ≤ m ∧ m ≤ 4419 ∧ 1191 ≤ b ∧ b ≤ 2209 then (.receiving, .aeha)
        else if 2381 ≤ m ∧ m ≤ 4419 ∧ 2381 ≤ b ∧ b ≤ 4419 then (.received, .aehaRepeat)
        else (.idle, .unknown))

/-! ### The host operations -/

/-- R95: GETSTATE writes RET_ERR and RET_VAL and nothing else. -/
def Obligations.GetstateReportsTheState : Prop :=
  ∀ s : State, exec .getstate s = .next
    { s with retErr := false, retVal := match s.state with
      | .idle => 0
      | .receiving => 1
      | .received => 2 }

/-- R96: GETDATA. A MAXBITS below BITCOUNT signals CapacityError and writes RET_ERR and RET_VAL only. Otherwise
OUTFMT, OUTCNT and the first ⌈BITCOUNT/8⌉ bytes of OUTBUF are written, the other bytes of OUTBUF keep their
contents, FullReset is performed, and RET_ERR, RET_VAL tell the count; WDCNT is not written. -/
def Obligations.GetdataCopiesAndConsumes : Prop :=
  ∀ (s : State) (m : BitVec 16),
    (m.toNat < s.bitCount →
      exec (.getdata m) s = .next { s with retErr := true, retVal := 0 } ∧
      signals (.getdata m) s = [.capacityError]) ∧
    (s.bitCount ≤ m.toNat → signals (.getdata m) s = [] ∧ ∃ t, exec (.getdata m) s = .next t ∧
      t = { s.fullReset with outFmt := s.format, outCnt := s.bitCount, outBuf := t.outBuf,
                             retErr := false, retVal := s.bitCount } ∧
      (∀ j, 8 * j < s.bitCount → t.outBuf.read j = s.bits.read j) ∧
      (∀ j, s.bitCount ≤ 8 * j → t.outBuf.read j = s.outBuf.read j))

/-- Derived (45_host_api.md section on R97 (a), (b), (d), (h)): after a successful GETDATA a second one succeeds
with no bits, format Unknown and no byte copied; after a CapacityError a later GETDATA with room gives exactly
what it would have given at once; and a CapacityError needs a bit, so a block that is receiving or has
received a data format. -/
def Obligations.SecondGetdataAndRetry : Prop :=
  (∀ (s t : State) (m n : BitVec 16), s.bitCount ≤ m.toNat → exec (.getdata m) s = .next t →
    exec (.getdata n) t = .next { t with outFmt := .unknown, outCnt := 0, retErr := false, retVal := 0 }) ∧
  (∀ (s t : State) (m n : BitVec 16), m.toNat < s.bitCount → s.bitCount ≤ n.toNat →
    exec (.getdata m) s = .next t → exec (.getdata n) t = exec (.getdata n) s) ∧
  (∀ (s t : State) (m : BitVec 16), Inv s → exec (.getdata m) s = .next t → t.retErr = true →
    (s.state = .receiving ∨ s.state = .received) ∧ (s.format = .nec ∨ s.format = .aeha ∨ s.format = .sony))

/-! ### Frames and whole-machine rules -/

/-- R17: WDCNT is written by WDT and RST only, and FullReset does not touch it. -/
def Obligations.WdcntWrittenByWdtAndRstOnly : Prop :=
  (∀ (i : Instr) (s t : State), exec i s = .next t → t.wdCnt ≠ s.wdCnt → i = .wdt ∨ i = .rst) ∧
  (∀ s : State, s.fullReset.wdCnt = s.wdCnt)

/-- R18: OUTFMT, OUTCNT and OUTBUF. A successful GETDATA writes them (the first ⌈BITCOUNT/8⌉ bytes of OUTBUF, the
others kept); a failed one and every other operation but RST leave them unchanged; and no other operation
reads them: with other contents it does exactly the same to the rest of the state. -/
def Obligations.OutputRegistersBelongToGetdata : Prop :=
  (∀ (s t : State) (m : BitVec 16), exec (.getdata m) s = .next t → s.bitCount ≤ m.toNat →
    t.outFmt = s.format ∧ t.outCnt = s.bitCount ∧
    ∀ j, t.outBuf.read j = if j < (s.bitCount + 7) / 8 then s.bits.read j else s.outBuf.read j) ∧
  (∀ (i : Instr) (s t : State), exec i s = .next t → i ≠ .rst →
    (∀ m, i = .getdata m → m.toNat < s.bitCount) →
    t.outFmt = s.outFmt ∧ t.outCnt = s.outCnt ∧ t.outBuf = s.outBuf) ∧
  (∀ (i : Instr) (s t : State) (f : ProtocolFormat) (n : Nat) (b : Memory), exec i s = .next t → i ≠ .rst →
    (∀ m, i ≠ .getdata m) →
    exec i { s with outFmt := f, outCnt := n, outBuf := b } = .next { t with outFmt := f, outCnt := n, outBuf := b })

/-- R19: RET_ERR and RET_VAL hold the result of the most recent host operation; no other operation but RST
writes them. -/
def Obligations.ResultRegistersBelongToTheHost : Prop :=
  (∀ s t : State, exec .getstate s = .next t → t.retErr = false ∧ t.retVal = s.state.code) ∧
  (∀ (s t : State) (m : BitVec 16), exec (.getdata m) s = .next t →
    (s.bitCount ≤ m.toNat → t.retErr = false ∧ t.retVal = s.bitCount) ∧
    (m.toNat < s.bitCount → t.retErr = true ∧ t.retVal = 0)) ∧
  (∀ (i : Instr) (s t : State), exec i s = .next t → i ≠ .rst → i ≠ .getstate → (∀ m, i ≠ .getdata m) →
    t.retErr = s.retErr ∧ t.retVal = s.retVal)

/-- R38: no operation writes a constant: the configuration record is the same at every step of a run. -/
def Obligations.ConfigurationIsConstant : Prop :=
  (∀ (i : Instr) (s t : State), exec i s = .next t → t.cfg = s.cfg ∧ t.inputs = s.inputs) ∧
  (∀ s t : State, step s = .next t → t.cfg = s.cfg)

/-- Derived (10_state.md R13, 20_memory.md R33): what an operation may do to BITS. Either every byte keeps its
value, or every byte becomes 0 with BITCOUNT (a FullReset), or the operation is an edge in Receiving that
changes at most the frame bit at position BITCOUNT. -/
def Obligations.FrameBitsFrame : Prop :=
  ∀ (i : Instr) (s t : State), exec i s = .next t →
    (∀ j, t.bits.read j = s.bits.read j) ∨
    (t.state = .idle ∧ t.bitCount = 0 ∧ ∀ j, t.bits.read j = 0) ∨
    (s.state = .receiving ∧ (i = .fall ∨ i = .rise) ∧ s.bitCount < 8 * s.cfg.capBytes ∧
      t.bitCount = s.bitCount + 1 ∧ ∀ k, k ≠ s.bitCount → t.bits.bit k = s.bits.bit k)

/-- R83: the complete transition table of STATE and FORMAT. -/
def Obligations.TransitionTable : Prop :=
  ∀ (i : Instr) (s : State), ∃ t, exec i s = .next t ∧
    let mark := s.c1.bind fun t1 => s.c2.map fun t2 => t2 - t1
    let space := s.c2.map fun t2 => s.elapsed - t2
    let firstMark := s.c1.map fun t1 => s.elapsed - t1
    let leader := fun (k1 k2 tu : Nat) =>
      inRange s.cfg mark (k1 * tu) = true ∧ inRange s.cfg space (k2 * tu) = true
    (t.state, t.format) = match i with
      | .rise =>
        if s.state = .idle ∧ inRange s.cfg firstMark (s.cfg.kSonyLeader * s.cfg.tuSony) then (.receiving, .sony)
        else if s.state = .idle ∧ (firstMark.all fun a => decide (a < s.cfg.minLeader)) then (.idle, .unknown)
        else (s.state, s.format)
      | .fall =>
        if s.state = .idle ∧ s.c1.isSome then
          if leader s.cfg.kNecMark s.cfg.kNecSpace s.cfg.tuNec then (.receiving, .nec)
          else if leader s.cfg.kNecrMark s.cfg.kNecrSpace s.cfg.tuNec then (.received, .necRepeat)
          else if leader s.cfg.kAehaMark s.cfg.kAehaSpace s.cfg.tuAeha then (.receiving, .aeha)
          else if leader s.cfg.kAeharMark s.cfg.kAeharSpace s.cfg.tuAeha then (.received, .aehaRepeat)
          else (.idle, .unknown)
        else (s.state, s.format)
      | .tick =>
        if s.state = .receiving ∧ s.tmoArmed = true ∧ s.tmoCnt ≤ 1 then (.received, s.format)
        else (s.state, s.format)
      | .wdt =>
        if (s.state ≠ .idle ∨ ¬s.stampsUnset) ∧ s.cfg.wdThreshold < s.wdCnt + 1 then (.idle, .unknown)
        else (s.state, s.format)
      | .getdata m => if s.bitCount ≤ m.toNat then (.idle, .unknown) else (s.state, s.format)
      | .rst => (.idle, .unknown)
      | .nop => (s.state, s.format)
      | .getstate => (s.state, s.format)

/-- R100: the error kinds, each with its trigger, both ways, and its whole next state. E1: MAXBITS < BITCOUNT,
in GETDATA; RET_ERR becomes 1, RET_VAL 0, nothing else. E2: no leader matched, or a first mark below MIN_LEADER;
FullReset. E3: the count exceeds WD_THRESHOLD; FullReset and WDCNT 0. E4: the interval of a bit-decoding edge
lies outside both bands, T[d1] unset included; the position is counted where there is room, and reads 0 in a
state that meets the invariant. E5: a bit-decoding edge at CAP_BITS; the bit is dropped. After E4 and E5 the
timeout is armed and the frame goes on. The codes are 1 to 5. -/
def Obligations.ErrorKindsAndTheirEffects : Prop :=
  (ErrorKind.code .capacityError = 1 ∧ ErrorKind.code .protocolMismatch = 2 ∧ ErrorKind.code .stuckState = 3 ∧
    ErrorKind.code .ambiguousBitTiming = 4 ∧ ErrorKind.code .frameOverflow = 5) ∧
  ∀ (i : Instr) (s : State),
    (.capacityError ∈ signals i s ↔ ∃ m, i = .getdata m ∧ m.toNat < s.bitCount) ∧
    (.capacityError ∈ signals i s → exec i s = .next { s with retErr := true, retVal := 0 }) ∧
    (.protocolMismatch ∈ signals i s ↔ s.state = .idle ∧ s.c1.isSome ∧
      ((i = .fall ∧ classifyLeader s.cfg (diffOf s.c2 s.c1) (diffOf (some s.elapsed) s.c2) = none) ∨
       (i = .rise ∧ inRange s.cfg (diffOf (some s.elapsed) s.c1) (s.cfg.kSonyLeader * s.cfg.tuSony) = false ∧
         isBelow (diffOf (some s.elapsed) s.c1) s.cfg.minLeader = true))) ∧
    (.protocolMismatch ∈ signals i s → exec i s = .next s.fullReset) ∧
    (.stuckState ∈ signals i s ↔ i = .wdt ∧ ¬s.atRest ∧ s.cfg.wdThreshold < s.wdCnt + 1) ∧
    (.stuckState ∈ signals i s → exec i s = .next { s.fullReset with wdCnt := 0 }) ∧
    (let x := s.d1.map fun t => s.elapsed - t
     let outside := fun (k1 k0 tu : Nat) =>
       inRange s.cfg x (k1 * tu) = false ∧ inRange s.cfg x (k0 * tu) = false
     .ambiguousBitTiming ∈ signals i s ↔ s.state = .receiving ∧
       ((i = .fall ∧ s.format = .nec ∧ outside s.cfg.kBit1 s.cfg.kBit0 s.cfg.tuNec) ∨
        (i = .fall ∧ s.format = .aeha ∧ outside s.cfg.kBit1 s.cfg.kBit0 s.cfg.tuAeha) ∨
        (i = .rise ∧ s.format = .sony ∧ outside s.cfg.kSonyBit1 s.cfg.kSonyBit0 s.cfg.tuSony))) ∧
    (.frameOverflow ∈ signals i s ↔ s.state = .receiving ∧ 8 * s.cfg.capBytes ≤ s.bitCount ∧
      ((i = .fall ∧ (s.format = .nec ∨ s.format = .aeha)) ∨ (i = .rise ∧ s.format = .sony))) ∧
    (let tmo := match s.format with
       | .sony => s.cfg.tmoSony
       | .aeha => s.cfg.tmoAeha
       | _ => s.cfg.tmoNec
     (.ambiguousBitTiming ∈ signals i s → exec i s = .next
       { s with d2 := some s.elapsed, tmoCnt := tmo, tmoArmed := true,
                bitCount := if s.bitCount < 8 * s.cfg.capBytes then s.bitCount + 1 else s.bitCount }) ∧
     (.frameOverflow ∈ signals i s → exec i s = .next
       { s with d2 := some s.elapsed, tmoCnt := tmo, tmoArmed := true })) ∧
    (.ambiguousBitTiming ∈ signals i s → Inv s → s.bits.bit s.bitCount = false)

/-! ### Invariants -/

/-- Derived (10_state.md sections 8, 9): the reset state meets the invariant. -/
def Obligations.ResetMeetsTheInvariant : Prop := Inv State.reset

/-- Derived (10_state.md section 8, R22 and R23, which asks the modeller to prove them): every step keeps the
invariant, from every state that meets it. -/
def Obligations.StepKeepsTheInvariant : Prop :=
  ∀ s t : State, Inv s → step s = .next t → Inv t

/-- Derived (10_state.md summary table, 00_scope.md R5): in a state that meets the invariant every register
fits the width the spec gives it. -/
def Obligations.RegistersFitTheirWidths : Prop :=
  ∀ s : State, Inv s →
    s.bitCount < 2 ^ s.cfg.wBc ∧ s.outCnt < 2 ^ s.cfg.wBc ∧ s.retVal < 2 ^ s.cfg.wBc ∧
    s.elapsed < 2 ^ s.cfg.wT ∧ (∀ k t, s.stamp k = some t → t < 2 ^ s.cfg.wT) ∧
    s.tmoCnt < 2 ^ s.cfg.wTmo ∧ s.wdCnt < 2 ^ s.cfg.wWd ∧
    (∀ j, s.cfg.capBytes ≤ j → s.bits.read j = 0 ∧ s.outBuf.read j = 0)

/-- Derived (10_state.md R15, R23 (f)): ELAPSED never decreases while RUN stays 1. -/
def Obligations.ElapsedIsMonotonicWhileRunning : Prop :=
  ∀ (i : Instr) (s t : State), exec i s = .next t → s.run = true → t.run = true → s.elapsed ≤ t.elapsed

/-! ### Claims about sequences of operations -/

/-- Derived (10_state.md R22 (b), 20_memory.md R34, 45_host_api.md R96): Received freezes the frame. From a
state in Received that meets the invariant, after any operations but RST, WDT and GETDATA, in any order, a
GETDATA with room for the frame delivers exactly the frame that was held: its format, its count, its bytes. -/
def Obligations.ReceivedFreezesTheFrame : Prop :=
  ∀ (s : State) (ops : List Instr) (m : BitVec 16), Inv s → s.state = .received →
    (∀ i ∈ ops, i ≠ .rst ∧ i ≠ .wdt ∧ ∀ n, i ≠ .getdata n) → s.bitCount ≤ m.toNat →
    ∃ t, execAll (ops ++ [.getdata m]) s = .next t ∧
      t.state = .idle ∧ t.retErr = false ∧ t.retVal = s.bitCount ∧ t.outFmt = s.format ∧
      t.outCnt = s.bitCount ∧ ∀ i < s.bitCount, t.outBuf.bit i = s.bits.bit i

/-- Derived (43_tick_timeout.md R87 (a), 70_reset_and_hazards.md R128): after a leader with no bit, no amount of
time ends the frame: TICKs leave the block in Receiving with nothing armed and the frame as it was. -/
def Obligations.LeaderWithoutBitsWaits : Prop :=
  ∀ (s : State) (n : Nat), s.state = .receiving → s.tmoArmed = false →
    ∃ t, execAll (List.replicate n .tick) s = .next t ∧ t = { s with elapsed := t.elapsed }

/-- Derived (43_tick_timeout.md R87 (b)): after a bit-decoding edge (FALL of NEC or AEHA, RISE of SONY), with no
further bit-decoding edge and no WDT, GETDATA or RST, the frame completes at exactly the TMO-th TICK: before it
the block is in Receiving, from it on in Received, with the frame as the edge left it. Edges that decode no
bit do not re-arm the timeout. -/
def Obligations.FrameCompletesAfterSilence : Prop :=
  ∀ (s t : State) (edge other : Instr) (tmo : Nat) (ops : List Instr),
    Inv s → s.state = .receiving →
    (s.format = .nec ∧ edge = .fall ∧ other = .rise ∧ tmo = s.cfg.tmoNec) ∨
      (s.format = .aeha ∧ edge = .fall ∧ other = .rise ∧ tmo = s.cfg.tmoAeha) ∨
      (s.format = .sony ∧ edge = .rise ∧ other = .fall ∧ tmo = s.cfg.tmoSony) →
    exec edge s = .next t →
    (∀ i ∈ ops, i = .tick ∨ i = .nop ∨ i = .getstate ∨ i = other) →
    ∃ u, execAll ops t = .next u ∧
      u.state = (if ops.count .tick < tmo then .receiving else .received) ∧
      u.format = s.format ∧ u.bitCount = t.bitCount ∧ u.bits = t.bits

/-- Derived (44_watchdog.md R91): the watchdog bounds every stay away from rest. From a state that meets the
invariant, any sequence of operations with WD_THRESHOLD + 1 WDTs in it, whatever else it holds and in
whatever order, brings the block to rest at some point: Idle with no timestamp set. -/
def Obligations.WatchdogBringsTheBlockToRest : Prop :=
  ∀ (s : State) (ops : List Instr), Inv s → s.cfg.wdThreshold + 1 ≤ ops.count .wdt →
    ∃ k ≤ ops.length, ∃ t, execAll (ops.take k) s = .next t ∧ t.atRest

/-- Derived (42_receiving_edges.md R75, R76, R81; the properties of 95_test_vectors.md X1, X3, for every frame):
the reception of a pulse-distance frame at the default parameters. From Receiving with an empty frame and
nothing armed, any list of at most 512 bits, each a mark and a space whose space lies in the band of its bit
and whose length together is below the timeout, is received bit by bit: the block is still in Receiving with
that many bits, and the i-th bit of the frame is the i-th bit sent. -/
def Obligations.PulseDistanceFrameIsReceived : Prop :=
  ∀ (s : State) (sent : List (Nat × Nat × Bool)) (lo0 hi0 lo1 hi1 tmo : Nat),
    Inv s → s.cfg = Config.default → s.state = .receiving → s.bitCount = 0 → s.tmoArmed = false →
    (s.format = .nec ∧ (lo0, hi0, lo1, hi1, tmo) = (394, 730, 1181, 2191, 2810)) ∨
      (s.format = .aeha ∧ (lo0, hi0, lo1, hi1, tmo) = (298, 552, 893, 1657, 2125)) →
    sent.length ≤ 512 →
    (∀ x ∈ sent, x.1 + x.2.1 < tmo ∧
      if x.2.2 then lo1 ≤ x.2.1 ∧ x.2.1 ≤ hi1 else lo0 ≤ x.2.1 ∧ x.2.1 ≤ hi0) →
    s.elapsed + (sent.map fun x => x.1 + x.2.1).sum < 2 ^ 32 →
    ∃ t, execAll (sent.flatMap fun x =>
        List.replicate x.1 .tick ++ [.rise] ++ List.replicate x.2.1 .tick ++ [.fall]) s = .next t ∧
      t.state = .receiving ∧ t.format = s.format ∧ t.bitCount = sent.length ∧
      ∀ i, (h : i < sent.length) → t.bits.bit i = (sent[i]).2.2

/-! ### Runs -/

/-- Derived (70_reset_and_hazards.md section 5, R131): a run, finite or infinite, with no reserved word never
halts: after each of its words the visible registers are those of a next state, after the first one they have
their reset values, and what is visible does not depend on the registers before the run. That the words not
yet sampled are the same is asked because the queue is the model's own (notes/assumptions/2.md, 15.md). -/
def Obligations.RunsAreObservedWordByWord : Prop :=
  ∀ (seq : WordSequence) (s t : State), seq.isRun = true → seq.meets noReservedWord →
    s.cfg = t.cfg → s.inputs = t.inputs →
    (∀ n, seq.has n → ∃ u, runWords (seq.take (n + 1)) s = .next u ∧ seq.visibleAt s n = some u.visible) ∧
    seq.visibleAt s 0 = some ⟨.idle, false, 0, .unknown, 0, []⟩ ∧
    ∀ n, seq.visibleAt s n = seq.visibleAt t n

/-- Derived (70_reset_and_hazards.md section 5, 20_memory.md R32, 10_state.md R12): a claim about every run,
finite or infinite, with no assumption on the environment: after every word OUTCNT and RET_VAL are at most
CAP_BITS and no byte of OUTBUF at or beyond CAP_BYTES is other than 0. -/
def Obligations.VisibleRegistersStayInBounds : Prop :=
  ∀ c : Config, c.wf → runClaim c (fun _ => True) fun _ _ v =>
    v.outCnt ≤ 8 * c.capBytes ∧ v.retVal ≤ 8 * c.capBytes ∧ ∀ j, c.capBytes ≤ j → v.outBuf.read j = 0
end

