-- ==== Sys2Proof/Laws/Memory.lean ====
section
/-! SUPPORT. The laws of the two byte arrays: a read after a write gives the value written there and the old
value elsewhere, for bytes, for frame bits and for the copy of GETDATA, and every operation keeps the
canonical form. -/

namespace Sys2Proof.Machine

@[simp] theorem Memory.read_nil (j : Nat) : Memory.read [] j = 0 := rfl

theorem Memory.read_put (m : Memory) (j k : Nat) (v : Byte) :
    (m.put j v).read k = if k = j then v else m.read k := by
  induction m with
  | nil => simp only [Memory.put, Memory.read, eq_comm]
  | cons x rest ih => grind [Memory.put, Memory.read]

theorem Memory.read_filter (m : Memory) (j k : Nat) :
    Memory.read (m.filter (fun x => x.1 ≠ j)) k = if k = j then 0 else m.read k := by
  induction m with
  | nil => simp
  | cons x rest ih => grind [Memory.read]

/-- The one lemma of reading after writing a byte. -/
theorem Memory.read_write (m : Memory) (j k : Nat) (v : Byte) :
    (m.write j v).read k = if k = j then v else m.read k := by
  unfold Memory.write
  split
  · subst v; exact m.read_filter j k
  · exact m.read_put j k v

@[simp] theorem Memory.read_write_same (m : Memory) (j : Nat) (v : Byte) : (m.write j v).read j = v := by
  simp [Memory.read_write]

theorem Memory.read_write_other (m : Memory) {j k : Nat} (v : Byte) (h : k ≠ j) :
    (m.write j v).read k = m.read k := by
  simp [Memory.read_write, h]

/-! ### The canonical form -/

theorem Memory.mem_put {m : Memory} {j : Nat} {v : Byte} {x : Host.Cell} (h : x ∈ m.put j v) :
    x = (j, v) ∨ x ∈ m := by
  induction m with
  | nil => simpa [Memory.put] using h
  | cons y rest ih =>
    simp only [Memory.put] at h
    split at h
    · simpa using h
    · split at h
      · rcases List.mem_cons.1 h with h | h
        · exact .inl h
        · exact .inr (List.mem_cons_of_mem _ h)
      · rcases List.mem_cons.1 h with h | h
        · exact .inr (h ▸ List.mem_cons_self)
        · exact (ih h).imp id (List.mem_cons_of_mem _)

theorem Memory.put_wf {m : Memory} (j : Nat) {v : Byte} (h : m.wf) (hv : v ≠ 0) : (m.put j v).wf := by
  obtain ⟨hs, hz⟩ := h
  refine ⟨?_, fun x hx => (Memory.mem_put hx).elim (fun e => e ▸ hv) (hz x)⟩
  induction m with
  | nil => simp [Memory.put]
  | cons y rest ih =>
    obtain ⟨ha, hr⟩ := List.pairwise_cons.1 hs
    simp only [Memory.put]
    split
    · refine List.pairwise_cons.2 ⟨fun z hz' => ?_, hs⟩
      rcases List.mem_cons.1 hz' with rfl | hz'
      · assumption
      · exact lt_trans ‹_› (ha z hz')
    · split
      · subst j; exact List.pairwise_cons.2 ⟨ha, hr⟩
      · refine List.pairwise_cons.2 ⟨fun z hz' => ?_, ih hr fun x hx => hz x (List.mem_cons_of_mem _ hx)⟩
        rcases Memory.mem_put hz' with rfl | hz'
        · show y.1 < j; omega
        · exact ha z hz'

theorem Memory.write_wf {m : Memory} (j : Nat) (v : Byte) (h : m.wf) : (m.write j v).wf := by
  unfold Memory.write
  split
  · exact ⟨h.1.filter _, fun x hx => h.2 x (List.mem_filter.1 hx).1⟩
  · exact Memory.put_wf j h ‹_›

theorem Memory.writeBit_wf {m : Memory} (i : Nat) (b : Bool) (h : m.wf) : (m.writeBit i b).wf :=
  Memory.write_wf _ _ h

theorem Memory.copy_wf (src : Memory) {dst : Memory} (n : Nat) (h : dst.wf) : (Memory.copy src dst n).wf := by
  induction n with
  | zero => exact h
  | succ n ih => exact Memory.write_wf _ _ ih

/-! ### Frame bits and the copy -/

theorem setBit_getLsbD (v : Byte) (k l : Nat) (b : Bool) (hk : k < 8) :
    (setBit v k b).getLsbD l = if l = k then b else v.getLsbD l := by
  unfold setBit
  by_cases hl : l < 8
  · by_cases e : l = k
    · subst l; cases b <;> simp [hk]
    · cases b <;> simp [e, hl] <;> omega
  · have : l ≠ k := by omega
    rw [if_neg this, BitVec.getLsbD_of_ge _ _ (by omega), BitVec.getLsbD_of_ge _ _ (by omega)]

/-- Writing frame bit `i` changes frame bit `i` and no other (20_memory.md rules R31, R33 (a)). -/
theorem Memory.bit_writeBit (m : Memory) (i k : Nat) (b : Bool) :
    (m.writeBit i b).bit k = if k = i then b else m.bit k := by
  unfold Memory.bit Memory.writeBit
  rw [Memory.read_write]
  split
  · rw [setBit_getLsbD _ _ _ _ (Nat.mod_lt _ (by decide))]
    by_cases e : k = i
    · simp [e]
    · rw [if_neg (by omega : k % 8 ≠ i % 8), if_neg e, ‹k / 8 = i / 8›]
  · rw [if_neg (by intro e; subst e; contradiction)]

theorem Memory.read_copy (src dst : Memory) (n j : Nat) :
    (Memory.copy src dst n).read j = if j < n then src.read j else dst.read j := by
  induction n with
  | zero => simp [Memory.copy]
  | succ n ih =>
    rw [Memory.copy, Memory.read_write, ih]
    split
    · subst j; simp
    · split <;> split <;> first | rfl | omega

/-- In canonical form, an array that reads 0 everywhere is the empty list: equal contents are equal data. -/
theorem Memory.eq_nil_of_read_zero {m : Memory} (h : m.wf) (hz : ∀ j, m.read j = 0) : m = [] := by
  cases m with
  | nil => rfl
  | cons x rest => exact absurd (by simpa [Memory.read] using hz x.1) (h.2 x List.mem_cons_self)

/-- A byte is 0 when its eight frame bits are. -/
theorem Memory.read_eq_zero_of_bits {m : Memory} {j : Nat} (h : ∀ k < 8, m.bit (8 * j + k) = false) :
    m.read j = 0 := by
  apply BitVec.eq_of_getLsbD_eq
  intro k hk
  have := h k hk
  unfold Memory.bit at this
  rw [show (8 * j + k) / 8 = j by omega, show (8 * j + k) % 8 = k by omega] at this
  simp [this]

theorem Memory.bit_of_read_zero {m : Memory} {i : Nat} (h : m.read (i / 8) = 0) : m.bit i = false := by
  simp [Memory.bit, h]

end Sys2Proof.Machine
end

