-- ==== Sys2Proof/Laws/State.lean ====
section
/-! SUPPORT. One lemma per field per update of State, each true by rfl, so that later proofs never unfold a
record update. -/

namespace Sys2Proof.Machine

variable (s : State)

/-! `T[k] <- t`, timestamp by timestamp. -/

@[simp] theorem setStamp_c1 (t : Option Nat) : s.setStamp .c1 t = { s with c1 := t } := rfl
@[simp] theorem stamp_c1 : s.stamp .c1 = s.c1 := rfl
@[simp] theorem setStamp_c2 (t : Option Nat) : s.setStamp .c2 t = { s with c2 := t } := rfl
@[simp] theorem stamp_c2 : s.stamp .c2 = s.c2 := rfl
@[simp] theorem setStamp_c3 (t : Option Nat) : s.setStamp .c3 t = { s with c3 := t } := rfl
@[simp] theorem stamp_c3 : s.stamp .c3 = s.c3 := rfl
@[simp] theorem setStamp_d1 (t : Option Nat) : s.setStamp .d1 t = { s with d1 := t } := rfl
@[simp] theorem stamp_d1 : s.stamp .d1 = s.d1 := rfl
@[simp] theorem setStamp_d2 (t : Option Nat) : s.setStamp .d2 t = { s with d2 := t } := rfl
@[simp] theorem stamp_d2 : s.stamp .d2 = s.d2 := rfl
@[simp] theorem stampNow_eq (k : Stamp) : s.stampNow k = s.setStamp k (some s.elapsed) := rfl
@[simp] theorem diff_eq (p q : Stamp) : s.diff p q = diffOf (s.stamp p) (s.stamp q) := rfl

/-! `clearTs` -/

@[simp] theorem clearTs_cfg : (s.clearTs).cfg = s.cfg := rfl
@[simp] theorem clearTs_inputs : (s.clearTs).inputs = s.inputs := rfl
@[simp] theorem clearTs_state : (s.clearTs).state = s.state := rfl
@[simp] theorem clearTs_format : (s.clearTs).format = s.format := rfl
@[simp] theorem clearTs_bitCount : (s.clearTs).bitCount = s.bitCount := rfl
@[simp] theorem clearTs_bits : (s.clearTs).bits = s.bits := rfl
@[simp] theorem clearTs_c1 : (s.clearTs).c1 = none := rfl
@[simp] theorem clearTs_c2 : (s.clearTs).c2 = none := rfl
@[simp] theorem clearTs_c3 : (s.clearTs).c3 = none := rfl
@[simp] theorem clearTs_d1 : (s.clearTs).d1 = none := rfl
@[simp] theorem clearTs_d2 : (s.clearTs).d2 = none := rfl
@[simp] theorem clearTs_elapsed : (s.clearTs).elapsed = s.elapsed := rfl
@[simp] theorem clearTs_run : (s.clearTs).run = s.run := rfl
@[simp] theorem clearTs_tmoCnt : (s.clearTs).tmoCnt = s.tmoCnt := rfl
@[simp] theorem clearTs_tmoArmed : (s.clearTs).tmoArmed = s.tmoArmed := rfl
@[simp] theorem clearTs_wdCnt : (s.clearTs).wdCnt = s.wdCnt := rfl
@[simp] theorem clearTs_outFmt : (s.clearTs).outFmt = s.outFmt := rfl
@[simp] theorem clearTs_outCnt : (s.clearTs).outCnt = s.outCnt := rfl
@[simp] theorem clearTs_outBuf : (s.clearTs).outBuf = s.outBuf := rfl
@[simp] theorem clearTs_retErr : (s.clearTs).retErr = s.retErr := rfl
@[simp] theorem clearTs_retVal : (s.clearTs).retVal = s.retVal := rfl

/-! `cancelTimeout` -/

@[simp] theorem cancelTimeout_cfg : (s.cancelTimeout).cfg = s.cfg := rfl
@[simp] theorem cancelTimeout_inputs : (s.cancelTimeout).inputs = s.inputs := rfl
@[simp] theorem cancelTimeout_state : (s.cancelTimeout).state = s.state := rfl
@[simp] theorem cancelTimeout_format : (s.cancelTimeout).format = s.format := rfl
@[simp] theorem cancelTimeout_bitCount : (s.cancelTimeout).bitCount = s.bitCount := rfl
@[simp] theorem cancelTimeout_bits : (s.cancelTimeout).bits = s.bits := rfl
@[simp] theorem cancelTimeout_c1 : (s.cancelTimeout).c1 = s.c1 := rfl
@[simp] theorem cancelTimeout_c2 : (s.cancelTimeout).c2 = s.c2 := rfl
@[simp] theorem cancelTimeout_c3 : (s.cancelTimeout).c3 = s.c3 := rfl
@[simp] theorem cancelTimeout_d1 : (s.cancelTimeout).d1 = s.d1 := rfl
@[simp] theorem cancelTimeout_d2 : (s.cancelTimeout).d2 = s.d2 := rfl
@[simp] theorem cancelTimeout_elapsed : (s.cancelTimeout).elapsed = s.elapsed := rfl
@[simp] theorem cancelTimeout_run : (s.cancelTimeout).run = s.run := rfl
@[simp] theorem cancelTimeout_tmoCnt : (s.cancelTimeout).tmoCnt = 0 := rfl
@[simp] theorem cancelTimeout_tmoArmed : (s.cancelTimeout).tmoArmed = false := rfl
@[simp] theorem cancelTimeout_wdCnt : (s.cancelTimeout).wdCnt = s.wdCnt := rfl
@[simp] theorem cancelTimeout_outFmt : (s.cancelTimeout).outFmt = s.outFmt := rfl
@[simp] theorem cancelTimeout_outCnt : (s.cancelTimeout).outCnt = s.outCnt := rfl
@[simp] theorem cancelTimeout_outBuf : (s.cancelTimeout).outBuf = s.outBuf := rfl
@[simp] theorem cancelTimeout_retErr : (s.cancelTimeout).retErr = s.retErr := rfl
@[simp] theorem cancelTimeout_retVal : (s.cancelTimeout).retVal = s.retVal := rfl

/-! `armTimeout` -/

@[simp] theorem armTimeout_cfg (d : Nat) : (s.armTimeout d).cfg = s.cfg := rfl
@[simp] theorem armTimeout_inputs (d : Nat) : (s.armTimeout d).inputs = s.inputs := rfl
@[simp] theorem armTimeout_state (d : Nat) : (s.armTimeout d).state = s.state := rfl
@[simp] theorem armTimeout_format (d : Nat) : (s.armTimeout d).format = s.format := rfl
@[simp] theorem armTimeout_bitCount (d : Nat) : (s.armTimeout d).bitCount = s.bitCount := rfl
@[simp] theorem armTimeout_bits (d : Nat) : (s.armTimeout d).bits = s.bits := rfl
@[simp] theorem armTimeout_c1 (d : Nat) : (s.armTimeout d).c1 = s.c1 := rfl
@[simp] theorem armTimeout_c2 (d : Nat) : (s.armTimeout d).c2 = s.c2 := rfl
@[simp] theorem armTimeout_c3 (d : Nat) : (s.armTimeout d).c3 = s.c3 := rfl
@[simp] theorem armTimeout_d1 (d : Nat) : (s.armTimeout d).d1 = s.d1 := rfl
@[simp] theorem armTimeout_d2 (d : Nat) : (s.armTimeout d).d2 = s.d2 := rfl
@[simp] theorem armTimeout_elapsed (d : Nat) : (s.armTimeout d).elapsed = s.elapsed := rfl
@[simp] theorem armTimeout_run (d : Nat) : (s.armTimeout d).run = s.run := rfl
@[simp] theorem armTimeout_tmoCnt (d : Nat) : (s.armTimeout d).tmoCnt = d := rfl
@[simp] theorem armTimeout_tmoArmed (d : Nat) : (s.armTimeout d).tmoArmed = true := rfl
@[simp] theorem armTimeout_wdCnt (d : Nat) : (s.armTimeout d).wdCnt = s.wdCnt := rfl
@[simp] theorem armTimeout_outFmt (d : Nat) : (s.armTimeout d).outFmt = s.outFmt := rfl
@[simp] theorem armTimeout_outCnt (d : Nat) : (s.armTimeout d).outCnt = s.outCnt := rfl
@[simp] theorem armTimeout_outBuf (d : Nat) : (s.armTimeout d).outBuf = s.outBuf := rfl
@[simp] theorem armTimeout_retErr (d : Nat) : (s.armTimeout d).retErr = s.retErr := rfl
@[simp] theorem armTimeout_retVal (d : Nat) : (s.armTimeout d).retVal = s.retVal := rfl

/-! `fullReset` -/

@[simp] theorem fullReset_cfg : (s.fullReset).cfg = s.cfg := rfl
@[simp] theorem fullReset_inputs : (s.fullReset).inputs = s.inputs := rfl
@[simp] theorem fullReset_state : (s.fullReset).state = .idle := rfl
@[simp] theorem fullReset_format : (s.fullReset).format = .unknown := rfl
@[simp] theorem fullReset_bitCount : (s.fullReset).bitCount = 0 := rfl
@[simp] theorem fullReset_bits : (s.fullReset).bits = [] := rfl
@[simp] theorem fullReset_c1 : (s.fullReset).c1 = none := rfl
@[simp] theorem fullReset_c2 : (s.fullReset).c2 = none := rfl
@[simp] theorem fullReset_c3 : (s.fullReset).c3 = none := rfl
@[simp] theorem fullReset_d1 : (s.fullReset).d1 = none := rfl
@[simp] theorem fullReset_d2 : (s.fullReset).d2 = none := rfl
@[simp] theorem fullReset_elapsed : (s.fullReset).elapsed = 0 := rfl
@[simp] theorem fullReset_run : (s.fullReset).run = false := rfl
@[simp] theorem fullReset_tmoCnt : (s.fullReset).tmoCnt = 0 := rfl
@[simp] theorem fullReset_tmoArmed : (s.fullReset).tmoArmed = false := rfl
@[simp] theorem fullReset_wdCnt : (s.fullReset).wdCnt = s.wdCnt := rfl
@[simp] theorem fullReset_outFmt : (s.fullReset).outFmt = s.outFmt := rfl
@[simp] theorem fullReset_outCnt : (s.fullReset).outCnt = s.outCnt := rfl
@[simp] theorem fullReset_outBuf : (s.fullReset).outBuf = s.outBuf := rfl
@[simp] theorem fullReset_retErr : (s.fullReset).retErr = s.retErr := rfl
@[simp] theorem fullReset_retVal : (s.fullReset).retVal = s.retVal := rfl

/-! `setResult` -/

@[simp] theorem setResult_cfg (e : Bool) (v : Nat) : (s.setResult e v).cfg = s.cfg := rfl
@[simp] theorem setResult_inputs (e : Bool) (v : Nat) : (s.setResult e v).inputs = s.inputs := rfl
@[simp] theorem setResult_state (e : Bool) (v : Nat) : (s.setResult e v).state = s.state := rfl
@[simp] theorem setResult_format (e : Bool) (v : Nat) : (s.setResult e v).format = s.format := rfl
@[simp] theorem setResult_bitCount (e : Bool) (v : Nat) : (s.setResult e v).bitCount = s.bitCount := rfl
@[simp] theorem setResult_bits (e : Bool) (v : Nat) : (s.setResult e v).bits = s.bits := rfl
@[simp] theorem setResult_c1 (e : Bool) (v : Nat) : (s.setResult e v).c1 = s.c1 := rfl
@[simp] theorem setResult_c2 (e : Bool) (v : Nat) : (s.setResult e v).c2 = s.c2 := rfl
@[simp] theorem setResult_c3 (e : Bool) (v : Nat) : (s.setResult e v).c3 = s.c3 := rfl
@[simp] theorem setResult_d1 (e : Bool) (v : Nat) : (s.setResult e v).d1 = s.d1 := rfl
@[simp] theorem setResult_d2 (e : Bool) (v : Nat) : (s.setResult e v).d2 = s.d2 := rfl
@[simp] theorem setResult_elapsed (e : Bool) (v : Nat) : (s.setResult e v).elapsed = s.elapsed := rfl
@[simp] theorem setResult_run (e : Bool) (v : Nat) : (s.setResult e v).run = s.run := rfl
@[simp] theorem setResult_tmoCnt (e : Bool) (v : Nat) : (s.setResult e v).tmoCnt = s.tmoCnt := rfl
@[simp] theorem setResult_tmoArmed (e : Bool) (v : Nat) : (s.setResult e v).tmoArmed = s.tmoArmed := rfl
@[simp] theorem setResult_wdCnt (e : Bool) (v : Nat) : (s.setResult e v).wdCnt = s.wdCnt := rfl
@[simp] theorem setResult_outFmt (e : Bool) (v : Nat) : (s.setResult e v).outFmt = s.outFmt := rfl
@[simp] theorem setResult_outCnt (e : Bool) (v : Nat) : (s.setResult e v).outCnt = s.outCnt := rfl
@[simp] theorem setResult_outBuf (e : Bool) (v : Nat) : (s.setResult e v).outBuf = s.outBuf := rfl
@[simp] theorem setResult_retErr (e : Bool) (v : Nat) : (s.setResult e v).retErr = e := rfl
@[simp] theorem setResult_retVal (e : Bool) (v : Nat) : (s.setResult e v).retVal = v := rfl

/-! `dropWord` -/

@[simp] theorem dropWord_cfg : (s.dropWord).cfg = s.cfg := rfl
@[simp] theorem dropWord_inputs : (s.dropWord).inputs = s.inputs.tail := rfl
@[simp] theorem dropWord_state : (s.dropWord).state = s.state := rfl
@[simp] theorem dropWord_format : (s.dropWord).format = s.format := rfl
@[simp] theorem dropWord_bitCount : (s.dropWord).bitCount = s.bitCount := rfl
@[simp] theorem dropWord_bits : (s.dropWord).bits = s.bits := rfl
@[simp] theorem dropWord_c1 : (s.dropWord).c1 = s.c1 := rfl
@[simp] theorem dropWord_c2 : (s.dropWord).c2 = s.c2 := rfl
@[simp] theorem dropWord_c3 : (s.dropWord).c3 = s.c3 := rfl
@[simp] theorem dropWord_d1 : (s.dropWord).d1 = s.d1 := rfl
@[simp] theorem dropWord_d2 : (s.dropWord).d2 = s.d2 := rfl
@[simp] theorem dropWord_elapsed : (s.dropWord).elapsed = s.elapsed := rfl
@[simp] theorem dropWord_run : (s.dropWord).run = s.run := rfl
@[simp] theorem dropWord_tmoCnt : (s.dropWord).tmoCnt = s.tmoCnt := rfl
@[simp] theorem dropWord_tmoArmed : (s.dropWord).tmoArmed = s.tmoArmed := rfl
@[simp] theorem dropWord_wdCnt : (s.dropWord).wdCnt = s.wdCnt := rfl
@[simp] theorem dropWord_outFmt : (s.dropWord).outFmt = s.outFmt := rfl
@[simp] theorem dropWord_outCnt : (s.dropWord).outCnt = s.outCnt := rfl
@[simp] theorem dropWord_outBuf : (s.dropWord).outBuf = s.outBuf := rfl
@[simp] theorem dropWord_retErr : (s.dropWord).retErr = s.retErr := rfl
@[simp] theorem dropWord_retVal : (s.dropWord).retVal = s.retVal := rfl

/-! `enterFrame` -/

@[simp] theorem enterFrame_cfg (f : ProtocolFormat) (st : DecoderState) : (s.enterFrame f st).cfg = s.cfg := rfl
@[simp] theorem enterFrame_inputs (f : ProtocolFormat) (st : DecoderState) : (s.enterFrame f st).inputs = s.inputs := rfl
@[simp] theorem enterFrame_state (f : ProtocolFormat) (st : DecoderState) : (s.enterFrame f st).state = st := rfl
@[simp] theorem enterFrame_format (f : ProtocolFormat) (st : DecoderState) : (s.enterFrame f st).format = f := rfl
@[simp] theorem enterFrame_bitCount (f : ProtocolFormat) (st : DecoderState) : (s.enterFrame f st).bitCount = 0 := rfl
@[simp] theorem enterFrame_bits (f : ProtocolFormat) (st : DecoderState) : (s.enterFrame f st).bits = s.bits := rfl
@[simp] theorem enterFrame_c1 (f : ProtocolFormat) (st : DecoderState) : (s.enterFrame f st).c1 = s.c1 := rfl
@[simp] theorem enterFrame_c2 (f : ProtocolFormat) (st : DecoderState) : (s.enterFrame f st).c2 = s.c2 := rfl
@[simp] theorem enterFrame_c3 (f : ProtocolFormat) (st : DecoderState) : (s.enterFrame f st).c3 = s.c3 := rfl
@[simp] theorem enterFrame_d1 (f : ProtocolFormat) (st : DecoderState) : (s.enterFrame f st).d1 = s.d1 := rfl
@[simp] theorem enterFrame_d2 (f : ProtocolFormat) (st : DecoderState) : (s.enterFrame f st).d2 = s.d2 := rfl
@[simp] theorem enterFrame_elapsed (f : ProtocolFormat) (st : DecoderState) : (s.enterFrame f st).elapsed = s.elapsed := rfl
@[simp] theorem enterFrame_run (f : ProtocolFormat) (st : DecoderState) : (s.enterFrame f st).run = s.run := rfl
@[simp] theorem enterFrame_tmoCnt (f : ProtocolFormat) (st : DecoderState) : (s.enterFrame f st).tmoCnt = s.tmoCnt := rfl
@[simp] theorem enterFrame_tmoArmed (f : ProtocolFormat) (st : DecoderState) : (s.enterFrame f st).tmoArmed = s.tmoArmed := rfl
@[simp] theorem enterFrame_wdCnt (f : ProtocolFormat) (st : DecoderState) : (s.enterFrame f st).wdCnt = s.wdCnt := rfl
@[simp] theorem enterFrame_outFmt (f : ProtocolFormat) (st : DecoderState) : (s.enterFrame f st).outFmt = s.outFmt := rfl
@[simp] theorem enterFrame_outCnt (f : ProtocolFormat) (st : DecoderState) : (s.enterFrame f st).outCnt = s.outCnt := rfl
@[simp] theorem enterFrame_outBuf (f : ProtocolFormat) (st : DecoderState) : (s.enterFrame f st).outBuf = s.outBuf := rfl
@[simp] theorem enterFrame_retErr (f : ProtocolFormat) (st : DecoderState) : (s.enterFrame f st).retErr = s.retErr := rfl
@[simp] theorem enterFrame_retVal (f : ProtocolFormat) (st : DecoderState) : (s.enterFrame f st).retVal = s.retVal := rfl

end Sys2Proof.Machine
end

