-- ==== Sys2Proof/Laws/Ops.lean ====
section
/-! SUPPORT. One lemma per shared operation that says everything it does, and the shape of exec, execAll and
step: every operation answers a next state. -/

namespace Sys2Proof.Machine

/-! ### AppendBit, TMOFIRE -/

/-- AppendBit writes BITS and BITCOUNT only (40_primitives.md rule R58). -/
theorem appendBit_frame (s : State) (m : BitClass) :
    s.appendBit m = { s with bits := (s.appendBit m).bits, bitCount := (s.appendBit m).bitCount } := by
  unfold State.appendBit
  split
  · cases m <;> rfl
  · rfl

theorem appendBit_bitCount (s : State) (m : BitClass) :
    (s.appendBit m).bitCount = if s.bitCount < s.cfg.capBits then s.bitCount + 1 else s.bitCount := by
  unfold State.appendBit
  split
  · cases m <;> rfl
  · rfl

theorem appendBit_bit (s : State) (m : BitClass) (i : Nat) :
    (s.appendBit m).bits.bit i =
      if s.bitCount < s.cfg.capBits ∧ i = s.bitCount then
        (match m with
          | .one => true
          | .zero => false
          | .noMatch => s.bits.bit i)
      else s.bits.bit i := by
  unfold State.appendBit
  split
  · rename_i h
    cases m <;> simp only [Memory.bit_writeBit, h, true_and]
    all_goals split <;> simp_all
  · rename_i h
    simp [h]

theorem appendBit_bits_wf (s : State) (m : BitClass) (h : s.bits.wf) : (s.appendBit m).bits.wf := by
  unfold State.appendBit
  split
  · cases m
    · exact Memory.writeBit_wf _ _ h
    · exact Memory.writeBit_wf _ _ h
    · exact h
  · exact h

theorem tmoFire_of_receiving {s : State} (h : s.state = .receiving) :
    s.tmoFire = { s with state := .received }.clearTs := by
  simp [State.tmoFire, h]

theorem tmoFire_of_not_receiving {s : State} (h : s.state ≠ .receiving) : s.tmoFire = s := by
  simp [State.tmoFire, h]

/-! ### The two halves of TICK -/

/-- The elapsed counter after a TICK (43_tick_timeout.md rule R85). -/
theorem tickElapsed_eq (s : State) :
    s.tickElapsed =
      { s with elapsed := if s.run = true ∧ s.elapsed < s.cfg.elapsedMax then s.elapsed + 1 else s.elapsed } := by
  unfold State.tickElapsed
  split
  · split <;> simp_all
  · split <;> simp_all

theorem tickTimeout_disarmed {s : State} (h : s.tmoArmed = false) : s.tickTimeout = s := by
  simp [State.tickTimeout, h]

theorem tickTimeout_counts {s : State} (h : s.tmoArmed = true) (h1 : 1 < s.tmoCnt) :
    s.tickTimeout = { s with tmoCnt := s.tmoCnt - 1 } := by
  unfold State.tickTimeout
  rw [if_pos h, if_neg (by omega)]

theorem tickTimeout_fires {s : State} (h : s.tmoArmed = true) (h1 : s.tmoCnt ≤ 1) :
    s.tickTimeout = { s with tmoCnt := 0, tmoArmed := false }.tmoFire := by
  unfold State.tickTimeout
  rw [if_pos h, if_pos (by omega), show s.tmoCnt - 1 = 0 by omega]

/-! ### What the edges and the timeout leave alone, and the watchdog's condition -/

/-- The timeout's half of TICK writes STATE, the timestamps and the timeout only (rules R85, R86). -/
theorem tickTimeout_frame (s : State) :
    s.tickTimeout =
      { s with
        state := s.tickTimeout.state
        c1 := s.tickTimeout.c1
        c2 := s.tickTimeout.c2
        c3 := s.tickTimeout.c3
        d1 := s.tickTimeout.d1
        d2 := s.tickTimeout.d2
        tmoCnt := s.tickTimeout.tmoCnt
        tmoArmed := s.tickTimeout.tmoArmed } := by
  unfold State.tickTimeout State.tmoFire
  split
  · split
    · split <;> rfl
    · rfl
  · rfl

/-- FALL writes none of WDCNT, the output registers and the result registers (41_idle_edges.md rules R67, R68,
42_receiving_edges.md rules R75, R77). -/
theorem fallEdge_frame (s : State) :
    s.fallEdge.wdCnt = s.wdCnt ∧ s.fallEdge.outFmt = s.outFmt ∧ s.fallEdge.outCnt = s.outCnt ∧
      s.fallEdge.outBuf = s.outBuf ∧ s.fallEdge.retErr = s.retErr ∧ s.fallEdge.retVal = s.retVal := by
  unfold State.fallEdge State.fallIdleSecond State.fallIdleFirst State.fallRecvPulseDistance State.fallRecvSony
  split
  · split
    · dsimp only; split <;> simp
    · simp
  · split
    all_goals simp
    all_goals
      rw [appendBit_frame]
      simp
  · simp

/-- RISE writes none of them either (41_idle_edges.md rules R69, R70, 42_receiving_edges.md rules R76, R78). -/
theorem riseEdge_frame (s : State) :
    s.riseEdge.wdCnt = s.wdCnt ∧ s.riseEdge.outFmt = s.outFmt ∧ s.riseEdge.outCnt = s.outCnt ∧
      s.riseEdge.outBuf = s.outBuf ∧ s.riseEdge.retErr = s.retErr ∧ s.riseEdge.retVal = s.retVal := by
  unfold State.riseEdge State.riseIdleMark State.riseIdleStray State.riseRecvPulseDistance State.riseRecvSony
  split
  · split
    · dsimp only
      split
      · simp
      · split <;> simp
    · simp
  · split
    all_goals simp
    all_goals
      rw [appendBit_frame]
      simp
  · simp

theorem anyStamp_eq_false (s : State) :
    s.anyStamp = false ↔ s.c1 = none ∧ s.c2 = none ∧ s.c3 = none ∧ s.d1 = none ∧ s.d2 = none := by
  simp [State.anyStamp, State.valid, and_assoc]

/-- `busy` of 44_watchdog.md rule R90, as a proposition. -/
theorem busy_iff (s : State) : s.busy = true ↔ s.state ≠ .idle ∨ s.anyStamp = true := by
  simp [State.busy]

/-! ### exec, execAll and step -/

/-- The state an operation leads to. -/
def State.after (s : State) : Instr → State
  | .rst => s.hardReset
  | .nop => s
  | .tick => s.tickElapsed.tickTimeout
  | .fall => s.fallEdge
  | .rise => s.riseEdge
  | .wdt => s.watchdogTick
  | .getstate => s.setResult false s.state.code
  | .getdata m => s.getData m

/-- Every operation answers a next state (60_exceptions.md rule R101). -/
theorem exec_eq (i : Instr) (s : State) : exec i s = .next (s.after i) := by
  cases i <;> rfl

@[simp] theorem execAll_nil (s : State) : execAll [] s = .next s := rfl

theorem execAll_cons (i : Instr) (ops : List Instr) (s : State) :
    execAll (i :: ops) s = execAll ops (s.after i) := by
  simp only [execAll, exec_eq]

/-- Operations run one after another (20_memory.md rule R34). -/
theorem execAll_eq (ops : List Instr) (s : State) : execAll ops s = .next (ops.foldl State.after s) := by
  induction ops generalizing s with
  | nil => rfl
  | cons i ops ih => rw [execAll_cons, ih, List.foldl_cons]

theorem execAll_append (ops more : List Instr) (s : State) :
    execAll (ops ++ more) s = execAll more (ops.foldl State.after s) := by
  simp only [execAll_eq, List.foldl_append]

/-- What a step does, case by case: a legal word's operations, or a refusal. -/
theorem step_eq (s : State) :
    step s =
      match decode s.nextWord with
      | .ok ops => .next (ops.foldl State.after s.dropWord)
      | .error why => .refused (.reservedWord why s.nextWord) := by
  unfold step State.cycle
  split <;> simp_all [execAll_eq]

/-- "If step answers next t": the inversion lemma of step. -/
theorem step_next {s t : State} (h : step s = .next t) :
    ∃ ops, decode s.nextWord = .ok ops ∧ t = ops.foldl State.after s.dropWord := by
  rw [step_eq] at h
  split at h
  · rename_i ops e
    exact ⟨ops, e, by injection h with h; exact h.symm⟩
  · cases h

end Sys2Proof.Machine
end

