-- ==== Sys2Proof/Laws/PerInstr.lean ====
section
/-! SUPPORT. Statements made per operation, as syntax: the word an operation is encoded as stands in its own
row of the table of 30_encoding.md rule R44, and the operation alone is a well-formed bundle. -/

namespace Sys2Proof.Laws.EncodedInItsRow

/-- The encoded word matches the operation's row, and the operation alone is well formed. -/
def Statement (i : Instr) : Prop := i.row.hits (encode i) = true ∧ i.wf = true

theorem rst : Statement .rst := ⟨by decide, by decide⟩
theorem nop : Statement .nop := ⟨by decide, by decide⟩
theorem tick : Statement .tick := ⟨by decide, by decide⟩
theorem fall : Statement .fall := ⟨by decide, by decide⟩
theorem rise : Statement .rise := ⟨by decide, by decide⟩
theorem wdt : Statement .wdt := ⟨by decide, by decide⟩
theorem getstate : Statement .getstate := ⟨by decide, by decide⟩

theorem getdata (m : BitVec 16) : Statement (.getdata m) := by
  refine ⟨?_, rfl⟩
  have : encode (.getdata m) &&& 0x0000FFFF#32 = 0x00000020#32 := by
    apply BitVec.eq_of_getLsbD_eq
    intro k hk
    simp only [encode, BitVec.getLsbD_and, BitVec.getLsbD_or, BitVec.getLsbD_shiftLeft, BitVec.getLsbD_setWidth]
    interval_cases k <;> simp
  have h2 : encode (.getdata m) &&& 0x0000FFF0#32 = 0x00000020#32 := by
    rw [show (0x0000FFF0#32) = 0x0000FFFF#32 &&& 0x0000FFF0#32 by decide, ← BitVec.and_assoc, this]
    decide
  simpa [TableRow.hits, Instr.row] using h2

end Sys2Proof.Laws.EncodedInItsRow
end

