-- ==== Sys2Proof/Laws/Runs.lean ====
section
/-! SUPPORT. What one word does to a run, and how runs over lists of words compose. -/

namespace Sys2Proof.Machine

/-- Presenting a word and taking it again gives the state back. -/
@[simp] theorem presentWord_dropWord (s : State) (w : Word) : (s.presentWord w).dropWord = s := rfl

@[simp] theorem presentWord_nextWord (s : State) (w : Word) : (s.presentWord w).nextWord = w := rfl

/-- The step that samples `w`: its operations on the state, or a refusal. -/
theorem step_presentWord (s : State) (w : Word) :
    step (s.presentWord w) =
      match decode w with
      | .ok ops => .next (ops.foldl State.after s)
      | .error why => .refused (.reservedWord why w) := by
  cases h : decode w <;> simp only [step_eq, presentWord_nextWord, presentWord_dropWord, h]

theorem runWords_cons_next {s t : State} {w : Word} (ws : List Word) (h : step (s.presentWord w) = .next t) :
    runWords (w :: ws) s = runWords ws t := by
  simp only [runWords, h]

theorem visibleTrace_cons_next {s t : State} {w : Word} (ws : List Word) (h : step (s.presentWord w) = .next t) :
    visibleTrace (w :: ws) s = t.visible :: visibleTrace ws t := by
  simp only [visibleTrace, h]

/-- A run over `ws ++ more` goes on from where `ws` led. -/
theorem runWords_append {ws : List Word} (more : List Word) {s t : State} (h : runWords ws s = .next t) :
    runWords (ws ++ more) s = runWords more t := by
  induction ws generalizing s with
  | nil => simp only [runWords, Host.Outcome.next.injEq] at h; rw [h, List.nil_append]
  | cons w ws ih =>
    simp only [List.cons_append, runWords] at h ⊢
    split at h <;> first | exact ih h | cases h

/-- No more is visible than there are words. -/
theorem visibleTrace_length_le (ws : List Word) (s : State) : (visibleTrace ws s).length ≤ ws.length := by
  induction ws generalizing s with
  | nil => exact Nat.le_refl 0
  | cons w ws ih =>
    simp only [visibleTrace]
    split
    · exact Nat.succ_le_succ (ih _)
    · exact Nat.zero_le _
    · exact Nat.zero_le _

end Sys2Proof.Machine
end

