-- ==== Sys2Proof/Tests/Slice0.lean ====
section
/-! SUPPORT. The model's own tests: ill-formed bundles, words written out from the spec, one step of every
operation against the spec's worked examples, and for every statement with hypotheses a concrete state and
operands that meet them. -/

namespace Sys2Proof.Tests

open Sys2Proof Sys2Proof.Machine

/-! ### Well-formedness: each check refuses a term -/

theorem test_wf_refuses_empty : Bundle.nonempty [] = false ∧ Bundle.wf [] = false := by decide
theorem test_wf_refuses_rst_beside_tick : Bundle.aloneOk [.rst, .tick] = false ∧ Bundle.wf [.rst, .tick] = false := by
  decide
theorem test_wf_refuses_nop_beside_tick : Bundle.aloneOk [.nop, .tick] = false ∧ Bundle.wf [.nop, .tick] = false := by
  decide
theorem test_wf_refuses_both_edges : Bundle.ordered [.fall, .rise] = false ∧ Bundle.wf [.fall, .rise] = false := by
  decide
theorem test_wf_refuses_wrong_order : Bundle.ordered [.wdt, .tick] = false ∧ Bundle.wf [.wdt, .tick] = false := by
  decide
theorem test_wf_refuses_two_host_operations :
    Bundle.ordered [.getstate, .getdata 0] = false ∧ Bundle.wf [.getstate, .getdata 0] = false := by decide
theorem test_wf_accepts_full_bundle : Bundle.wf [.tick, .rise, .wdt, .getdata 65535] = true := by decide

/-! ### Decoding: words written out from 30_encoding.md section 1, bit 31 first -/

theorem test_decode_rst : decode 0b00000000000000000000000001000000#32 = .ok [.rst] := by rfl
theorem test_decode_nop : decode 0b00000000000000000000000000000000#32 = .ok [.nop] := by rfl
theorem test_decode_tick : decode 0b00000000000000000000000000000001#32 = .ok [.tick] := by rfl
theorem test_decode_fall : decode 0b00000000000000000000000000000010#32 = .ok [.fall] := by rfl
theorem test_decode_rise : decode 0b00000000000000000000000000000100#32 = .ok [.rise] := by rfl
theorem test_decode_wdt : decode 0b00000000000000000000000000001000#32 = .ok [.wdt] := by rfl
theorem test_decode_getstate : decode 0b00000000000000000000000000010000#32 = .ok [.getstate] := by rfl
theorem test_decode_getdata : decode 0b10000000000000010000000000100000#32 = .ok [.getdata 0x8001] := by rfl

/-- RST overrides every other bit, reserved ones included (rule R42). -/
theorem test_decode_rst_overrides : decode 0b11111111111111111111111111111111#32 = .ok [.rst] := by rfl

/-- A bundle, in the order of rule R42. -/
theorem test_decode_bundle :
    decode 0b00000000000000010000000000101011#32 = .ok [.tick, .fall, .wdt, .getdata 1] := by rfl

/-- Rule R43 (a), (b), (c), and MAXBITS without GETDATA, which is ignored. -/
theorem test_decode_reserved :
    decode 0b00000000000000000000000000000110#32 = .error .bothEdges ∧
    decode 0b00000000000000000000000000110000#32 = .error .hostOp3 ∧
    decode 0b00000000000000000000000010000001#32 = .error .zeroBits ∧
    decode 0b00000000000000001000000000000000#32 = .error .zeroBits ∧
    decode 0b00010010001101000000000000000100#32 = .ok [.rise] := ⟨rfl, rfl, rfl, rfl, rfl⟩

/-- The words of opcode_table.json, as the host presents them. -/
theorem test_decodeTableWord :
    decodeTableWord 32 0x40 = some .rst ∧ decodeTableWord 32 0 = some .nop ∧ decodeTableWord 32 1 = some .tick ∧
    decodeTableWord 32 2 = some .fall ∧ decodeTableWord 32 4 = some .rise ∧ decodeTableWord 32 8 = some .wdt ∧
    decodeTableWord 32 0x10 = some .getstate ∧ decodeTableWord 32 0x00200020 = some (.getdata 32) ∧
    decodeTableWord 32 6 = none := ⟨rfl, rfl, rfl, rfl, rfl, rfl, rfl, rfl, rfl⟩

/-! ### Small states -/

/-- The next state, if there is one. -/
def nextOf (o : Host.Outcome State Fault Refusal) : Option State :=
  match o with
  | .next t => some t
  | .fault _ => none
  | .refused _ => none

/-- Idle, a leader under way: T[c1] = set(0), T[c2] as given, ELAPSED as given. -/
def leader (c2 : Option Nat) (elapsed : Nat) : State :=
  { State.reset with run := true, c1 := some 0, c2 := c2, elapsed := elapsed }

/-- Receiving an NEC or AEHA frame after a leader of 9000 and 4500 µs, `count` bits received, all 0. -/
def receiving (format : ProtocolFormat) (count elapsed : Nat) (d1 : Option Nat) : State :=
  { State.reset with
    state := .receiving
    format := format
    bitCount := count
    run := true
    c1 := some 0
    c2 := some 9000
    c3 := some 13500
    d1 := d1
    elapsed := elapsed }

/-- Receiving a SONY frame after a leader of 2400 µs. -/
def receivingSony (count elapsed : Nat) (d1 : Option Nat) : State :=
  { State.reset with
    state := .receiving
    format := .sony
    bitCount := count
    run := true
    c1 := some 0
    c2 := some 2400
    d1 := d1
    elapsed := elapsed }

/-- The frame of 45_host_api.md rule R96's example, held in Received. -/
def received : State :=
  { State.reset with
    state := .received
    format := .nec
    bitCount := 32
    bits := [(0, 0x04), (1, 0xFB), (2, 0x08), (3, 0xF7)]
    run := true
    elapsed := 70230 }

/-! ### One step of every operation; expected results from the spec's examples -/

/-- 40_primitives.md rule R60. -/
theorem test_rst : exec .rst { received with wdCnt := 7, outCnt := 3, retErr := true } = .next State.reset := by rfl

/-- 40_primitives.md rule R59: no time passes without TICK. -/
theorem test_nop : exec .nop (leader none 5) = .next (leader none 5) := by rfl

/-- The example of 43_tick_timeout.md rule R85: the timeout fires. -/
theorem test_tick_fires :
    exec .tick { receiving .nec 32 70229 (some 70000) with tmoArmed := true, tmoCnt := 1 } =
      .next { State.reset with state := .received, format := .nec, bitCount := 32, run := true, elapsed := 70230 } := by
  rfl

/-- Rule R85, corner case (ii): ELAPSED saturates. -/
theorem test_tick_saturates :
    (nextOf (exec .tick (leader none 4294967295))).map State.elapsed = some 4294967295 := by decide

/-- The second example of 41_idle_edges.md rule R68: an NEC repeat leader. -/
theorem test_fall_repeat_leader :
    exec .fall (leader (some 9000) 11250) =
      .next { State.reset with state := .received, format := .necRepeat, run := true, elapsed := 11250 } := by rfl

/-- The example of 42_receiving_edges.md rule R75: an NEC 1 bit at position 2. -/
theorem test_fall_nec_bit :
    (nextOf (exec .fall (receiving .nec 2 17990 (some 16300)))).map (fun t =>
      (t.bits, t.bitCount, t.d2, t.tmoCnt, t.tmoArmed)) = some ([(0, 4)], 3, some 17990, 2810, true) := by decide

/-- 41_idle_edges.md rule R69: "a = 149 is reset". -/
theorem test_rise_noise : exec .rise (leader none 149) = .next State.reset := by rfl

/-- The first example of rule R69: a SONY leader. -/
theorem test_rise_sony_leader : exec .rise (leader none 2400) = .next (receivingSony 0 2400 none) := by rfl

/-- The first two examples of 44_watchdog.md rule R90. -/
theorem test_wdt_counts_to_fifty :
    exec .wdt { receiving .nec 0 13500 none with wdCnt := 49 } =
      .next { receiving .nec 0 13500 none with wdCnt := 50 } := by rfl
theorem test_wdt_fifty_first :
    exec .wdt { receiving .nec 0 13500 none with wdCnt := 50 } = .next State.reset := by rfl

/-- The example of 45_host_api.md rule R95. -/
theorem test_getstate : exec .getstate received = .next { received with retVal := 2 } := by rfl

/-- The example of rule R96. -/
theorem test_getdata :
    exec (.getdata 32) received =
      .next { State.reset with outFmt := .nec, outCnt := 32, outBuf := received.bits, retVal := 32 } := by rfl

/-- Rule R96: one bit of room too few. -/
theorem test_getdata_capacity : exec (.getdata 31) received = .next { received with retErr := true } := by rfl

/-- 30_encoding.md rule R48, `FR 600 1`, and the pins of rule R49. -/
theorem test_assemble : assemble [.fr 1 2] = [1#32, 2#32, 1#32, 1#32, 4#32] := by decide
theorem test_pins :
    InputPins.word ⟨false, true, false, true, true, 2, 512⟩ = 0x0200002D#32 := by decide

/-- One cycle: the word that the host places is decoded and run, in the order of rule R42. -/
theorem test_step_runs_bundle :
    step ((leader none 2399).withFetchWord 32 0x15) = .next { receivingSony 0 2400 none with retVal := 1 } := by rfl
theorem test_step_refuses :
    step (State.reset.withFetchWord 32 6) = .refused (.reservedWord .bothEdges 6) := by rfl

/-! ### States that meet the invariant -/

theorem test_default_wf : Config.default.wf := by decide
theorem test_empty_wf : Memory.wf [] := by decide

theorem leader_inv (e : Nat) (he : e < 2 ^ 32) (c2 : Option Nat) (h : ∀ t, c2 = some t → t ≤ e) :
    Inv (leader c2 e) := by
  constructor
  case cfg_wf => exact test_default_wf
  case bits_wf => exact test_empty_wf
  case outBuf_wf => exact test_empty_wf
  case elapsed_width => exact he
  case order_c1_c2 => intro t u ht _; simp [leader] at ht; omega
  case stamp_le_elapsed =>
    intro k t ht
    cases k <;> simp [leader, State.stamp, State.reset] at ht ⊢
    · omega
    · exact h t ht
  all_goals simp [leader, State.reset, Config.default, Memory.bit]

theorem receiving_inv (f : ProtocolFormat) (hf : f = .nec ∨ f = .aeha) (n e : Nat) (hn : n ≤ 512)
    (he : 13500 ≤ e ∧ e < 2 ^ 32) (d1 : Option Nat) (h : ∀ t, d1 = some t → t ≤ e) : Inv (receiving f n e d1) := by
  constructor
  case cfg_wf => exact test_default_wf
  case bits_wf => exact test_empty_wf
  case outBuf_wf => exact test_empty_wf
  case elapsed_width => exact he.2
  case stamp_le_elapsed =>
    intro k t ht
    cases k <;> simp [receiving, State.stamp, State.reset] at ht ⊢
    · omega
    · omega
    · omega
    · exact h t ht
  case receiving_format => intro _; exact hf.imp id Or.inl
  case count_le => exact hn
  case repeat_frame => rcases hf with rfl | rfl <;> simp [receiving]
  all_goals simp [receiving, State.reset, Config.default, Memory.bit]

theorem receivingSony_inv : Inv (receivingSony 1 3000 (some 2900)) := by
  constructor
  case cfg_wf => decide
  case bits_wf => decide
  case outBuf_wf => decide
  case count_le => decide
  case stamp_le_elapsed => intro k t ht; cases k <;> simp_all [receivingSony, State.stamp, State.reset] <;> omega
  all_goals simp [receivingSony, State.reset, Config.default, Memory.bit]

theorem received_inv : Inv received := by
  constructor
  case cfg_wf => decide
  case bits_wf => decide
  case outBuf_wf => decide
  case count_le => decide
  case stamp_le_elapsed => intro k t ht; cases k <;> simp_all [received, State.stamp, State.reset]
  case tail_zero =>
    intro i hi
    have : 32 ≤ i := hi
    apply Memory.bit_of_read_zero
    simp only [received, Memory.read]
    rw [if_neg (by omega), if_neg (by omega), if_neg (by omega), if_neg (by omega)]
  all_goals simp [received, State.reset, Config.default, State.stampsUnset]

/-! ### Witnesses: each statement's hypotheses are met together -/

theorem witness_DecodeOfEncodedBundle :
    Bundle.wf [.rst] = true ∧ Bundle.wf [.nop] = true ∧ Bundle.wf [.tick, .fall, .wdt, .getdata 0xFFFF] = true := by
  decide

theorem witness_DecodedBundleReassembles :
    (decode 0xFFFFFFFF#32 = .ok [.rst] ∧ encodeBundle [.rst] = 0x00000040#32) ∧
    (decode 0x00050021#32 = .ok [.tick, .getdata 5] ∧ encodeBundle [.tick, .getdata 5] = 0x00050021#32) ∧
    (decode 0x12340011#32 = .ok [.tick, .getstate] ∧ encodeBundle [.tick, .getstate] = 0x00000011#32) :=
  ⟨⟨rfl, rfl⟩, ⟨rfl, rfl⟩, ⟨rfl, rfl⟩⟩

theorem witness_WordIsAnOrderedBundle :
    (received.presentWord 0x11).inputs = 0x11 :: [] ∧ decode 0x11 = .ok [.tick, .getstate] ∧
    exec .tick (leader none 4) = .next (leader none 5) := ⟨rfl, rfl, rfl⟩

theorem witness_ReservedWordsAreRefused :
    (received.presentWord 0x06).inputs = 0x06 :: [] ∧ decode 0x06 = .error .bothEdges ∧
    decode 0x30 = .error .hostOp3 ∧ decode 0xFF80 = .error .zeroBits ∧
    (0xABCD0001#32).extractLsb' 4 2 ≠ 2#2 := by
  refine ⟨rfl, rfl, rfl, rfl, by decide⟩

theorem witness_TableRowsSelectTheOperations :
    decode 0xFFFFFFFF#32 = .ok [.rst] ∧ decode 0xFFFF0000#32 = .ok [.nop] ∧
    decode 0x0001002B#32 = .ok [.tick, .fall, .wdt, .getdata 1] ∧ decode 0x14#32 = .ok [.rise, .getstate] :=
  ⟨rfl, rfl, rfl, rfl⟩

theorem witness_StepRunsTheDecodedOperation :
    (received.presentWord 0x00200020).inputs = 0x00200020 :: [] ∧ decode 0x00200020 = .ok [.getdata 32] := ⟨rfl, rfl⟩

theorem witness_IdleCycleChangesNothing : received.inputs = [] := rfl

theorem witness_StepCompletesUnlessReserved :
    (∃ t, step (received.presentWord 1) = .next t ∧ t.inputs = []) ∧
    step (received.presentWord 6) = .refused (.reservedWord .bothEdges 6) := ⟨⟨received.after .tick, rfl, rfl⟩, rfl⟩

/-- The band of nominal 2400, at both ends: 1681 and 3119 match, 1680 and 3120 do not (rule R52). -/
theorem witness_InRangeIsTheOpenBand :
    (Config.default.tolLoNum = 7 ∧ Config.default.tolLoDen = 10 ∧ Config.default.tolHiNum = 13 ∧
      Config.default.tolHiDen = 10) ∧
    inRange Config.default (some 1680) 2400 = false ∧ inRange Config.default (some 1681) 2400 = true ∧
    inRange Config.default (some 3119) 2400 = true ∧ inRange Config.default (some 3120) 2400 = false := by decide

theorem witness_DifferencesNeverUnderflow :
    Inv (receiving .nec 0 15000 (some 14000)) ∧
    ((receiving .nec 0 15000 (some 14000)).stampNow .d2).diff .d2 .d1 = some 1000 ∧
    Inv (leader (some 9000) 13500) ∧ ((leader (some 9000) 13500).stampNow .c3).diff .c3 .c2 = some 4500 ∧
    Inv (leader none 0) ∧ ((leader none 0).stampNow .c2).diff .c2 .c1 = some 0 ∧
    (((leader (some 9000) 13500).stampNow .c3).diff .c2 .c1 = some 9000 ∧
      (leader (some 9000) 13500).stamp .c1 = some 0 ∧ (leader (some 9000) 13500).stamp .c2 = some 9000) :=
  ⟨receiving_inv _ (.inl rfl) _ _ (by decide) (by decide) _ (by simp), rfl,
    leader_inv _ (by decide) _ (by simp), rfl, leader_inv _ (by decide) _ (by simp), rfl, rfl, rfl, rfl⟩

theorem witness_ClearTsAndCancelTimeout : received.tmoArmed = false ∧ received.tmoCnt = 0 := by decide

theorem witness_ArmedTimeoutFiresAtTheDthTick :
    1 ≤ 1 ∧ (receiving .nec 1 20000 none).state = .receiving ∧ 0 < 1 := by decide

theorem witness_AppendBitWritesOneBit :
    (receiving .nec 511 20000 none).bitCount < 8 * Config.default.capBytes ∧
    8 * Config.default.capBytes ≤ (receiving .nec 512 20000 none).bitCount := by decide

theorem witness_BitsArePackedLsbFirst :
    (receiving .nec 0 20000 none).bitCount = 0 ∧ (∀ j, (receiving .nec 0 20000 none).bits.read j = 0) ∧
    [BitClass.zero, .zero, .one, .noMatch].length ≤ 8 * Config.default.capBytes :=
  ⟨rfl, fun _ => rfl, by decide⟩

theorem witness_RstGivesEveryRegisterItsResetValue : (0xFFFF8047#32).getLsbD 6 = true := by decide

theorem witness_WatchdogCountsAndForcesReset :
    (¬(leader none 0).stampsUnset ∧ received.state ≠ .idle) ∧
    ({ received with wdCnt := 49 } : State).wdCnt + 1 ≤ received.cfg.wdThreshold ∧
    received.cfg.wdThreshold < ({ received with wdCnt := 50 } : State).wdCnt + 1 ∧
    (State.reset.state = .idle ∧ State.reset.stampsUnset) := by decide

theorem witness_FirstFallStartsALeader : State.reset.state = .idle ∧ State.reset.c1 = none := by decide

/-- The five outcomes, each at an edge of its bands (rule R52). -/
theorem witness_SecondFallClassifiesTheLeader :
    ((leader (some 6295) (6295 + 3148)).state = .idle ∧ (leader (some 6295) (6295 + 3148)).c1 = some 0) ∧
    (nextOf (exec .fall (leader (some 6295) (6295 + 3148)))).map State.format = some .nec ∧
    (nextOf (exec .fall (leader (some 11689) (11689 + 2922)))).map State.format = some .necRepeat ∧
    (nextOf (exec .fall (leader (some 4419) (4419 + 2209)))).map State.format = some .aeha ∧
    (nextOf (exec .fall (leader (some 4419) (4419 + 2381)))).map State.format = some .aehaRepeat ∧
    (nextOf (exec .fall (leader (some 11690) (11690 + 4496)))).map State.format = some .unknown ∧
    signals .fall (leader none 5000) = [.protocolMismatch] := by decide

theorem witness_RiseInIdleTriesSonyThenNoise :
    ((leader none 1681).state = .idle ∧ (leader none 1681).c1 = some 0) ∧
    (nextOf (exec .rise (leader none 1681))).map State.format = some .sony ∧
    (149 < Config.default.minLeader ∧ signals .rise (leader none 149) = [.protocolMismatch]) ∧
    (Config.default.minLeader ≤ 150 ∧ (nextOf (exec .rise (leader none 150))).map State.c2 = some (some 150)) := by
  decide

theorem witness_StrayRiseChangesNothing : State.reset.state = .idle ∧ State.reset.c1 = none := by decide

theorem witness_FallDecodesASpace :
    (receiving .nec 0 14500 none).state = .receiving ∧ (receiving .nec 0 14500 none).format = .nec ∧
    (receiving .aeha 512 14500 (some 14203)).state = .receiving ∧
    (receiving .aeha 512 14500 (some 14203)).format = .aeha ∧
    signals .fall (receiving .aeha 512 14500 (some 14203)) = [.ambiguousBitTiming, .frameOverflow] ∧
    signals .fall (receiving .aeha 512 14500 (some 14202)) = [.frameOverflow] := by decide

theorem witness_RiseDecodesASonyMark :
    (receivingSony 0 3600 (some 3000)).state = .receiving ∧ (receivingSony 0 3600 (some 3000)).format = .sony := by
  decide

theorem witness_NonDecodingEdgeStampsD1 :
    (receiving .nec 0 14060 none).state = .receiving ∧ (receiving .nec 0 14060 none).format = .nec ∧
    (receivingSony 0 3000 none).state = .receiving ∧ (receivingSony 0 3000 none).format = .sony := by decide

theorem witness_EdgesIgnored :
    received.state = .received ∧
    ((receiving .unknown 0 14000 none).state = .receiving ∧ (receiving .unknown 0 14000 none).format ≠ .nec ∧
      (receiving .unknown 0 14000 none).format ≠ .aeha ∧ (receiving .unknown 0 14000 none).format ≠ .sony) := by
  decide

theorem witness_IdleDecisionTable :
    (Inv (leader none 149) ∧ (leader none 149).cfg = Config.default ∧ (leader none 149).state = .idle ∧
      (leader none 149).c1.isSome ∧ (leader none 149).elapsed ≤ 149 ∧ (leader none 149).c2 = none) ∧
    (Inv (leader (some 9000) 13500) ∧ (leader (some 9000) 13500).c1.isSome ∧
      (leader (some 9000) 13500).c2 = some 9000) :=
  ⟨⟨leader_inv _ (by decide) _ (by simp), rfl, rfl, rfl, by decide, rfl⟩,
    leader_inv _ (by decide) _ (by simp), rfl, rfl⟩

theorem witness_GetdataCopiesAndConsumes :
    (31#16).toNat < received.bitCount ∧ received.bitCount ≤ (32#16).toNat ∧
    8 * 3 < received.bitCount ∧ received.bitCount ≤ 8 * 4 := by decide

theorem witness_SecondGetdataAndRetry :
    (received.bitCount ≤ (32#16).toNat ∧ exec (.getdata 32) received = .next (received.after (.getdata 32))) ∧
    ((31#16).toNat < received.bitCount ∧ exec (.getdata 31) received = .next { received with retErr := true }) ∧
    Inv received := ⟨⟨by decide, rfl⟩, ⟨by decide, rfl⟩, received_inv⟩

theorem witness_WdcntWrittenByWdtAndRstOnly :
    exec .wdt received = .next { received with wdCnt := 1 } ∧
    ({ received with wdCnt := 1 } : State).wdCnt ≠ received.wdCnt := ⟨rfl, by decide⟩

theorem witness_OutputRegistersBelongToGetdata :
    (exec (.getdata 32) received = .next (received.after (.getdata 32)) ∧ received.bitCount ≤ (32#16).toNat) ∧
    (exec (.getdata 31) received = .next { received with retErr := true } ∧ (31#16).toNat < received.bitCount) ∧
    exec .fall (leader none 5) = .next ((leader none 5).after .fall) := ⟨⟨rfl, by decide⟩, ⟨rfl, by decide⟩, rfl⟩

theorem witness_ResultRegistersBelongToTheHost :
    exec .getstate received = .next { received with retVal := 2 } ∧
    (exec (.getdata 31) received = .next { received with retErr := true } ∧ (31#16).toNat < received.bitCount) ∧
    (exec (.getdata 32) received = .next (received.after (.getdata 32)) ∧ received.bitCount ≤ (32#16).toNat) ∧
    exec .tick (leader none 4) = .next (leader none 5) := ⟨rfl, ⟨rfl, by decide⟩, ⟨rfl, by decide⟩, rfl⟩

theorem witness_ConfigurationIsConstant :
    exec .tick (leader none 4) = .next (leader none 5) ∧
    step ((leader none 4).presentWord 1) = .next (leader none 5) := ⟨rfl, rfl⟩

/-- One state for each of the three outcomes. -/
theorem witness_FrameBitsFrame :
    exec .tick (leader none 4) = .next (leader none 5) ∧ exec .rst received = .next State.reset ∧
    ((nextOf (exec .fall (receiving .nec 2 17990 (some 16300)))).map fun t => t.bits.read 0) = some 4 :=
  ⟨rfl, rfl, by decide⟩

/-- Each error kind is signalled somewhere, the two of the bit-decoding edges for each of their formats; the bands
of a SONY 0 and 1 meet nowhere between 779 and 841 (rule R52). -/
theorem witness_ErrorKindsAndTheirEffects :
    (.capacityError ∈ signals (.getdata 31) received ∧ .protocolMismatch ∈ signals .rise (leader none 149) ∧
      .protocolMismatch ∈ signals .fall (leader none 149) ∧
      .stuckState ∈ signals .wdt { received with wdCnt := 50 }) ∧
    (.ambiguousBitTiming ∈ signals .fall (receiving .nec 0 14500 none) ∧
      .ambiguousBitTiming ∈ signals .fall (receiving .aeha 0 14500 (some 14203)) ∧
      .ambiguousBitTiming ∈ signals .rise (receivingSony 0 3780 (some 3000)) ∧
      .ambiguousBitTiming ∉ signals .rise (receivingSony 0 3779 (some 3000))) ∧
    (.frameOverflow ∈ signals .fall (receiving .nec 512 14500 (some 14000)) ∧
      .frameOverflow ∈ signals .rise (receivingSony 512 3600 (some 3000)) ∧
      .frameOverflow ∉ signals .rise (receivingSony 511 3600 (some 3000))) := by decide

theorem witness_ErrorKindsAndTheirEffects_inv :
    Inv (receiving .nec 512 14500 none) ∧ .ambiguousBitTiming ∈ signals .fall (receiving .nec 512 14500 none) :=
  ⟨receiving_inv _ (.inl rfl) _ _ (by decide) (by decide) _ (by simp), by decide⟩

theorem witness_StepKeepsTheInvariant :
    Inv received ∧ step (received.presentWord 0x00200020) = .next (received.after (.getdata 32)) := ⟨received_inv, rfl⟩

theorem witness_RegistersFitTheirWidths :
    Inv received ∧ Inv (receiving .aeha 512 4294967295 none) ∧
    (receiving .aeha 512 4294967295 none).stamp .c3 = some 13500 :=
  ⟨received_inv, receiving_inv _ (.inr rfl) _ _ (by decide) (by decide) _ (by simp), rfl⟩

theorem witness_ElapsedIsMonotonicWhileRunning :
    exec .tick (leader none 4) = .next (leader none 5) ∧ (leader none 4).run = true ∧ (leader none 5).run = true :=
  ⟨rfl, rfl, rfl⟩

theorem witness_ReceivedFreezesTheFrame :
    Inv received ∧ received.state = .received ∧
    (∀ i ∈ [Instr.fall, .tick, .rise, .getstate, .nop], i ≠ .rst ∧ i ≠ .wdt ∧ ∀ n, i ≠ .getdata n) ∧
    received.bitCount ≤ (32#16).toNat := ⟨received_inv, rfl, by simp, by decide⟩

theorem witness_LeaderWithoutBitsWaits :
    (receiving .nec 0 13500 none).state = .receiving ∧ (receiving .nec 0 13500 none).tmoArmed = false := by decide

/-- One state for each of the three formats. -/
theorem witness_FrameCompletesAfterSilence :
    (Inv (receiving .nec 0 15000 (some 14400)) ∧ (receiving .nec 0 15000 (some 14400)).format = .nec ∧
      exec .fall (receiving .nec 0 15000 (some 14400)) = .next ((receiving .nec 0 15000 (some 14400)).after .fall)) ∧
    (Inv (receiving .aeha 0 15000 (some 14400)) ∧ (receiving .aeha 0 15000 (some 14400)).format = .aeha ∧
      exec .fall (receiving .aeha 0 15000 (some 14400)) = .next ((receiving .aeha 0 15000 (some 14400)).after .fall)) ∧
    (Inv (receivingSony 1 3000 (some 2900)) ∧ (receivingSony 1 3000 (some 2900)).format = .sony ∧
      exec .rise (receivingSony 1 3000 (some 2900)) = .next ((receivingSony 1 3000 (some 2900)).after .rise)) ∧
    (∀ i ∈ [Instr.tick, .rise, .tick, .getstate], i = .tick ∨ i = .nop ∨ i = .getstate ∨ i = .rise) ∧
    (∀ i ∈ [Instr.tick, .fall, .tick, .getstate], i = .tick ∨ i = .nop ∨ i = .getstate ∨ i = .fall) :=
  ⟨⟨receiving_inv _ (.inl rfl) _ _ (by decide) (by decide) _ (by simp), rfl, rfl⟩,
    ⟨receiving_inv _ (.inr rfl) _ _ (by decide) (by decide) _ (by simp), rfl, rfl⟩,
    ⟨receivingSony_inv, rfl, rfl⟩, by simp, by simp⟩

theorem witness_WatchdogBringsTheBlockToRest :
    Inv received ∧ received.cfg.wdThreshold + 1 ≤ (List.replicate 51 Instr.wdt).count .wdt := by
  refine ⟨received_inv, ?_⟩
  rw [List.count_replicate_self]
  decide

/-- An NEC 0 of 394 and a 1 of 2191 µs, an AEHA 1 of 893 and a 0 of 552 µs: edges of their bands (rule R52). -/
theorem witness_PulseDistanceFrameIsReceived :
    (Inv (receiving .nec 0 13500 none) ∧ (receiving .nec 0 13500 none).cfg = Config.default ∧
      (receiving .nec 0 13500 none).bitCount = 0 ∧ (receiving .nec 0 13500 none).tmoArmed = false ∧
      ∀ x ∈ [((562 : Nat), (394 : Nat), false), (618, 2191, true)], x.1 + x.2.1 < 2810 ∧
        if x.2.2 then 1181 ≤ x.2.1 ∧ x.2.1 ≤ 2191 else 394 ≤ x.2.1 ∧ x.2.1 ≤ 730) ∧
    (Inv (receiving .aeha 0 13500 none) ∧ (receiving .aeha 0 13500 none).format = .aeha ∧
      ∀ x ∈ [((425 : Nat), (893 : Nat), true), (425, 552, false)], x.1 + x.2.1 < 2125 ∧
        if x.2.2 then 893 ≤ x.2.1 ∧ x.2.1 ≤ 1657 else 298 ≤ x.2.1 ∧ x.2.1 ≤ 552) ∧
    (receiving .nec 0 13500 none).elapsed + ((562 + 394) + (618 + 2191)) < 2 ^ 32 :=
  ⟨⟨receiving_inv _ (.inl rfl) _ _ (by decide) (by decide) _ (by simp), rfl, rfl, rfl, by simp⟩,
    ⟨receiving_inv _ (.inr rfl) _ _ (by decide) (by decide) _ (by simp), rfl, by simp⟩, by decide⟩

/-! ### Runs -/

/-- RST, then TICK for ever. -/
def resetThenTicks : WordSequence := .infinite fun n => if n = 0 then 0x40 else 0x01

/-- 70_reset_and_hazards.md rule R131: what is visible after each word, from any registers before the run. -/
theorem test_visibleAt :
    (WordSequence.finite [0x40, 0x12]).isRun = true ∧ (WordSequence.finite [0x12, 0x40]).isRun = false ∧
    visibleTrace [0x40, 0x12] received = [State.reset.visible, State.reset.visible] ∧
    (WordSequence.finite [0x40, 0x12]).visibleAt received 2 = none := by decide

theorem witness_RunsAreObservedWordByWord :
    (resetThenTicks.isRun = true ∧ resetThenTicks.meets noReservedWord ∧ resetThenTicks.has 1000) ∧
    ((WordSequence.finite [0x40]).isRun = true ∧ (WordSequence.finite [0x40]).has 0) ∧
    (received.cfg = (leader none 5).cfg ∧ received.inputs = (leader none 5).inputs) := by
  refine ⟨⟨rfl, fun n => ?_, trivial⟩, ⟨rfl, Nat.zero_lt_one⟩, rfl, rfl⟩
  simp only [noReservedWord, WordSequence.take, resetThenTicks, List.all_eq_true, List.mem_map]
  rintro w ⟨k, -, rfl⟩
  split <;> rfl

theorem witness_VisibleRegistersStayInBounds :
    Config.default.wf ∧ resetThenTicks.isRun = true ∧ received.cfg = Config.default ∧ received.inputs = [] ∧
    resetThenTicks.visibleAt received 0 = some State.reset.visible :=
  ⟨test_default_wf, rfl, rfl, rfl, by decide⟩

/-- The host that polls and consumes in Received keeps the discipline of rules R122 and R123; one that lets the
51st WDT come does not. -/
theorem test_consumesInTime :
    consumesInTime [.getstate, .getdata 32, .wdt] { received with wdCnt := 50 } = true ∧
    consumesInTime [.wdt] { received with wdCnt := 50 } = false := by decide

end Sys2Proof.Tests
end

section
/-! Every register of a state that meets the invariant fits its width (the table of 10_state.md). -/

namespace Sys2Proof.Machine

/-! ### From bounds on contents to widths -/

/-- W_BC is wide enough for every count of bits up to CAP_BITS (00_scope.md rule R5). -/
theorem Config.lt_two_pow_wBc {c : Config} {n : Nat} (h : n ≤ c.capBits) : n < 2 ^ c.wBc :=
  (Nat.lt_succ_of_le h).trans_le (Nat.le_pow_clog Nat.one_lt_two (c.capBits + 1))

namespace Inv

variable {s : State}

/-- Disarmed, TMO_CNT is 0; armed, it is at most the longest timeout, which fits W_TMO
(10_state.md rule R23 (d), 40_primitives.md rule R56). -/
theorem tmoCnt_width (h : Inv s) : s.tmoCnt < 2 ^ s.cfg.wTmo := by
  obtain ⟨-, -, -, -, tmoMax_width, -⟩ := h.cfg_wf
  cases armed : s.tmoArmed with
  | false => rw [h.disarmed armed]; exact Nat.two_pow_pos _
  | true =>
    obtain ⟨-, -, -, tmoCnt_le⟩ := h.armed armed
    exact tmoCnt_le.trans_lt tmoMax_width

/-- W_WD holds even the value one above WD_THRESHOLD (00_scope.md rule R5). -/
theorem wdCnt_width (h : Inv s) : s.wdCnt < 2 ^ s.cfg.wWd := by
  obtain ⟨-, -, -, -, -, threshold_width⟩ := h.cfg_wf
  exact (Nat.lt_succ_of_le h.wdCnt_le).trans threshold_width

theorem stamp_width (h : Inv s) {k : Stamp} {t : Nat} (ht : s.stamp k = some t) : t < 2 ^ s.cfg.wT :=
  (h.stamp_le_elapsed k t ht).trans_lt h.elapsed_width

/-- The bits of a byte beyond CAP_BYTES stand at positions beyond BITCOUNT, and those are 0
(10_state.md rule R23 (h)). -/
theorem bits_bound (h : Inv s) {j : Nat} (hj : s.cfg.capBytes ≤ j) : s.bits.read j = 0 := by
  refine Memory.read_eq_zero_of_bits fun k _ => h.tail_zero (8 * j + k) ?_
  calc s.bitCount ≤ 8 * s.cfg.capBytes := h.count_le
    _ ≤ 8 * j := Nat.mul_le_mul_left 8 hj
    _ ≤ 8 * j + k := Nat.le_add_right _ k

end Inv

/-- Settles O48, register by register from the invariant. -/
theorem registersFitTheirWidths : Obligations.RegistersFitTheirWidths := fun _ h =>
  ⟨Config.lt_two_pow_wBc h.count_le, Config.lt_two_pow_wBc h.outCnt_le, Config.lt_two_pow_wBc h.retVal_le,
    h.elapsed_width, fun _ _ ht => h.stamp_width ht, h.tmoCnt_width, h.wdCnt_width,
    fun j hj => ⟨h.bits_bound hj, h.outBuf_bound j hj⟩⟩

end Sys2Proof.Machine
end

section
/-! Who writes the host-side registers of 10_state.md (rules R17, R18, R19, R24): WDCNT, the output registers
OUTFMT, OUTCNT and OUTBUF, and the result registers RET_ERR and RET_VAL. -/

namespace Sys2Proof.Machine

variable {s t : State} {i : Instr}

/-- The inversion lemma of exec: it answers the state `State.after` names and no other. -/
theorem after_eq_of_exec (h : exec i s = .next t) : s.after i = t := by
  rw [exec_eq] at h
  exact Host.Outcome.next.inj h

/-! ### RST -/

/-- RST overrides every other bit of its word (30_encoding.md rule R42). -/
theorem decode_of_rstBit {w : Word} (h : w.rstBit = true) : decode w = .ok [.rst] := if_pos h

/-- RST leads to the reset state, with the parameters and the words not yet sampled as they were
(40_primitives.md rule R60). -/
theorem hardReset_eq (s : State) : s.hardReset = { State.reset with cfg := s.cfg, inputs := s.inputs } := rfl

/-- Settles O24: the reset state, written out, is what `hardReset_eq` says. -/
theorem rstGivesEveryRegisterItsResetValue : Obligations.RstGivesEveryRegisterItsResetValue := by
  have exec_rst (s : State) : exec .rst s = .next { State.reset with cfg := s.cfg, inputs := s.inputs } := by
    rw [exec_eq, State.after, hardReset_eq]
  exact ⟨fun _ => decode_of_rstBit, exec_rst, Memory.read_nil, exec_rst⟩

/-! ### What TICK, WDT and GETDATA leave alone; the edges have `fallEdge_frame` and `riseEdge_frame` -/

/-- TICK writes none of WDCNT, the output registers and the result registers (43_tick_timeout.md rules R85,
R86). -/
theorem tick_frame (s : State) :
    (s.after .tick).wdCnt = s.wdCnt ∧ (s.after .tick).outFmt = s.outFmt ∧ (s.after .tick).outCnt = s.outCnt ∧
      (s.after .tick).outBuf = s.outBuf ∧ (s.after .tick).retErr = s.retErr ∧
      (s.after .tick).retVal = s.retVal := by
  rw [State.after, tickTimeout_frame, tickElapsed_eq]
  exact ⟨rfl, rfl, rfl, rfl, rfl, rfl⟩

/-- WDT writes none of the output registers and the result registers, tripping or not (44_watchdog.md rule
R90). -/
theorem watchdogTick_frame (s : State) :
    s.watchdogTick.outFmt = s.outFmt ∧ s.watchdogTick.outCnt = s.outCnt ∧ s.watchdogTick.outBuf = s.outBuf ∧
      s.watchdogTick.retErr = s.retErr ∧ s.watchdogTick.retVal = s.retVal := by
  unfold State.watchdogTick
  split
  · split <;> simp
  · simp

/-- GETDATA with CapacityError writes the result registers only (45_host_api.md rule R96). -/
theorem getData_of_lt {m : BitVec 16} (h : m.toNat < s.bitCount) : s.getData m = s.setResult true 0 := if_pos h

/-- A successful GETDATA copies the frame out and consumes it (45_host_api.md rule R96). -/
theorem getData_of_le {m : BitVec 16} (h : s.bitCount ≤ m.toNat) :
    s.getData m = s.copyFrame.fullReset.setResult false s.bitCount := if_neg (Nat.not_lt.2 h)

@[simp] theorem copyFrame_wdCnt (s : State) : s.copyFrame.wdCnt = s.wdCnt := rfl
@[simp] theorem copyFrame_outFmt (s : State) : s.copyFrame.outFmt = s.format := rfl
@[simp] theorem copyFrame_outCnt (s : State) : s.copyFrame.outCnt = s.bitCount := rfl
@[simp] theorem copyFrame_outBuf (s : State) :
    s.copyFrame.outBuf = Memory.copy s.bits s.outBuf (bytesFor s.bitCount) := rfl

@[simp] theorem getData_wdCnt (s : State) (m : BitVec 16) : (s.getData m).wdCnt = s.wdCnt := by
  obtain h | h := Nat.lt_or_ge m.toNat s.bitCount
  · rw [getData_of_lt h, setResult_wdCnt]
  · rw [getData_of_le h, setResult_wdCnt, fullReset_wdCnt, copyFrame_wdCnt]

/-! ### WDCNT -/

/-- Of all operations only WDT and RST write WDCNT (10_state.md rule R17). -/
theorem after_wdCnt (s : State) (hwdt : i ≠ .wdt) (hrst : i ≠ .rst) : (s.after i).wdCnt = s.wdCnt := by
  cases i with
  | rst => contradiction
  | wdt => contradiction
  | nop => rfl
  | tick => exact (tick_frame s).1
  | fall => exact (fallEdge_frame s).1
  | rise => exact (riseEdge_frame s).1
  | getstate => rfl
  | getdata m => exact getData_wdCnt s m

/-- Settles O39, the contrapositive of `after_wdCnt`. -/
theorem wdcntWrittenByWdtAndRstOnly : Obligations.WdcntWrittenByWdtAndRstOnly := by
  refine ⟨fun i s t h changed => ?_, fullReset_wdCnt⟩
  obtain rfl := after_eq_of_exec h
  by_contra other
  obtain ⟨hwdt, hrst⟩ := not_or.1 other
  exact changed (after_wdCnt s hwdt hrst)

/-! ### The result registers -/

/-- Of all operations only the two host operations and RST write RET_ERR and RET_VAL (10_state.md rule R19). -/
theorem after_result (s : State) (hrst : i ≠ .rst) (hgetstate : i ≠ .getstate) (hgetdata : ∀ m, i ≠ .getdata m) :
    (s.after i).retErr = s.retErr ∧ (s.after i).retVal = s.retVal := by
  cases i with
  | rst => contradiction
  | getstate => contradiction
  | getdata m => exact absurd rfl (hgetdata m)
  | nop => exact ⟨rfl, rfl⟩
  | tick =>
    obtain ⟨-, -, -, -, retErr, retVal⟩ := tick_frame s
    exact ⟨retErr, retVal⟩
  | fall =>
    obtain ⟨-, -, -, -, retErr, retVal⟩ := fallEdge_frame s
    exact ⟨retErr, retVal⟩
  | rise =>
    obtain ⟨-, -, -, -, retErr, retVal⟩ := riseEdge_frame s
    exact ⟨retErr, retVal⟩
  | wdt =>
    obtain ⟨-, -, -, retErr, retVal⟩ := watchdogTick_frame s
    exact ⟨retErr, retVal⟩

/-- Settles O41: the host operations' results, and `after_result` for all others. -/
theorem resultRegistersBelongToTheHost : Obligations.ResultRegistersBelongToTheHost := by
  refine ⟨fun s t h => ?_, fun s t m h => ⟨fun fits => ?_, fun tooLong => ?_⟩, fun i s t h hrst hget hdata => ?_⟩
  all_goals obtain rfl := after_eq_of_exec h
  · exact ⟨rfl, rfl⟩
  · rw [State.after, getData_of_le fits]
    exact ⟨rfl, rfl⟩
  · rw [State.after, getData_of_lt tooLong]
    exact ⟨rfl, rfl⟩
  · exact after_result s hrst hget hdata

end Sys2Proof.Machine
end

section
/-! The output registers OUTFMT, OUTCNT and OUTBUF (10_state.md rule R18): who writes them, and that no operation
but GETDATA and RST reads them. -/

namespace Sys2Proof.Machine

variable {i : Instr}

/-! ### Who writes them -/

/-- Of all operations only a successful GETDATA and RST write OUTFMT, OUTCNT and OUTBUF (rule R18). -/
theorem after_outputs {s : State} (hrst : i ≠ .rst) (tooLong : ∀ m, i = .getdata m → m.toNat < s.bitCount) :
    (s.after i).outFmt = s.outFmt ∧ (s.after i).outCnt = s.outCnt ∧ (s.after i).outBuf = s.outBuf := by
  cases i with
  | rst => contradiction
  | nop => exact ⟨rfl, rfl, rfl⟩
  | tick =>
    obtain ⟨-, outFmt, outCnt, outBuf, -⟩ := tick_frame s
    exact ⟨outFmt, outCnt, outBuf⟩
  | fall =>
    obtain ⟨-, outFmt, outCnt, outBuf, -⟩ := fallEdge_frame s
    exact ⟨outFmt, outCnt, outBuf⟩
  | rise =>
    obtain ⟨-, outFmt, outCnt, outBuf, -⟩ := riseEdge_frame s
    exact ⟨outFmt, outCnt, outBuf⟩
  | wdt =>
    obtain ⟨outFmt, outCnt, outBuf, -⟩ := watchdogTick_frame s
    exact ⟨outFmt, outCnt, outBuf⟩
  | getstate => exact ⟨rfl, rfl, rfl⟩
  | getdata m =>
    rw [State.after, getData_of_lt (tooLong m rfl)]
    exact ⟨rfl, rfl, rfl⟩

/-! ### Who reads them

Two states that differ in the output registers only: `s` and `s.withOutputs f n b`. An operation that commutes with
`withOutputs` neither reads the three registers nor writes them. -/

/-- `s` with other contents of OUTFMT, OUTCNT and OUTBUF. -/
def State.withOutputs (s : State) (f : ProtocolFormat) (n : Nat) (b : Memory) : State :=
  { s with outFmt := f, outCnt := n, outBuf := b }

variable (s : State) (f : ProtocolFormat) (n : Nat) (b : Memory)

/-! What the edges test and measure. -/

@[simp] theorem withOutputs_cfg : (s.withOutputs f n b).cfg = s.cfg := rfl
@[simp] theorem withOutputs_state : (s.withOutputs f n b).state = s.state := rfl
@[simp] theorem withOutputs_format : (s.withOutputs f n b).format = s.format := rfl
@[simp] theorem withOutputs_valid (k : Stamp) : (s.withOutputs f n b).valid k = s.valid k := by cases k <;> rfl
@[simp] theorem withOutputs_diff (p q : Stamp) : (s.withOutputs f n b).diff p q = s.diff p q := by
  cases p <;> cases q <;> rfl
@[simp] theorem withOutputs_leaderClass : (s.withOutputs f n b).leaderClass = s.leaderClass := rfl

/-! The shared operations commute with `withOutputs`. -/

/-- `withOutputs` moves into the branches of a test; what is left to see is that the test does not depend on it. -/
theorem withOutputs_ite (p : Prop) [Decidable p] (x y : State) :
    (if p then x else y).withOutputs f n b = if p then x.withOutputs f n b else y.withOutputs f n b :=
  apply_ite (State.withOutputs · f n b) p x y

theorem withOutputs_stampNow (k : Stamp) :
    (s.withOutputs f n b).stampNow k = (s.stampNow k).withOutputs f n b := by cases k <;> rfl

theorem withOutputs_armTimeout (d : Nat) :
    (s.withOutputs f n b).armTimeout d = (s.armTimeout d).withOutputs f n b := rfl

theorem withOutputs_appendBit (m : BitClass) :
    (s.withOutputs f n b).appendBit m = (s.appendBit m).withOutputs f n b := by
  unfold State.appendBit
  rw [withOutputs_ite]
  cases m <;> rfl

theorem withOutputs_tmoFire : (s.withOutputs f n b).tmoFire = s.tmoFire.withOutputs f n b := by
  unfold State.tmoFire
  rw [withOutputs_ite]
  rfl

/-! The operations commute with `withOutputs`. -/

theorem withOutputs_tickElapsed : (s.withOutputs f n b).tickElapsed = s.tickElapsed.withOutputs f n b := by
  rw [tickElapsed_eq, tickElapsed_eq]
  rfl

theorem withOutputs_tickTimeout : (s.withOutputs f n b).tickTimeout = s.tickTimeout.withOutputs f n b := by
  unfold State.tickTimeout
  rw [withOutputs_ite, withOutputs_ite, ← withOutputs_tmoFire]
  rfl

theorem withOutputs_fallIdleSecond :
    (s.withOutputs f n b).fallIdleSecond = s.fallIdleSecond.withOutputs f n b := by
  simp only [State.fallIdleSecond, withOutputs_stampNow, withOutputs_leaderClass]
  split <;> rfl

theorem withOutputs_fallRecvPulseDistance (tu tmo : Nat) :
    (s.withOutputs f n b).fallRecvPulseDistance tu tmo = (s.fallRecvPulseDistance tu tmo).withOutputs f n b := by
  simp only [State.fallRecvPulseDistance, withOutputs_stampNow, withOutputs_cfg, withOutputs_diff,
    withOutputs_appendBit, withOutputs_armTimeout]

theorem withOutputs_fallEdge : (s.withOutputs f n b).fallEdge = s.fallEdge.withOutputs f n b := by
  simp only [State.fallEdge, withOutputs_state, withOutputs_valid, withOutputs_format]
  split
  · split
    · exact withOutputs_fallIdleSecond s f n b
    · rfl
  · split
    · exact withOutputs_fallRecvPulseDistance s f n b _ _
    · exact withOutputs_fallRecvPulseDistance s f n b _ _
    all_goals rfl
  · rfl

theorem withOutputs_riseIdleMark : (s.withOutputs f n b).riseIdleMark = s.riseIdleMark.withOutputs f n b := by
  simp only [State.riseIdleMark, withOutputs_stampNow, withOutputs_cfg, withOutputs_diff]
  split
  · rfl
  · split <;> rfl

theorem withOutputs_riseRecvSony : (s.withOutputs f n b).riseRecvSony = s.riseRecvSony.withOutputs f n b := by
  simp only [State.riseRecvSony, withOutputs_stampNow, withOutputs_cfg, withOutputs_diff, withOutputs_appendBit,
    withOutputs_armTimeout]

theorem withOutputs_riseEdge : (s.withOutputs f n b).riseEdge = s.riseEdge.withOutputs f n b := by
  simp only [State.riseEdge, withOutputs_state, withOutputs_valid, withOutputs_format]
  split
  · split
    · exact withOutputs_riseIdleMark s f n b
    · rfl
  · split
    · rfl
    · rfl
    · exact withOutputs_riseRecvSony s f n b
    all_goals rfl
  · rfl

theorem withOutputs_watchdogTick : (s.withOutputs f n b).watchdogTick = s.watchdogTick.withOutputs f n b := by
  unfold State.watchdogTick
  rw [withOutputs_ite, withOutputs_ite]
  rfl

/-- Every operation but GETDATA and RST does the same to the rest of the state, whatever OUTFMT, OUTCNT and OUTBUF
hold (rule R18). -/
theorem withOutputs_after (hrst : i ≠ .rst) (hgetdata : ∀ m, i ≠ .getdata m) :
    (s.withOutputs f n b).after i = (s.after i).withOutputs f n b := by
  cases i with
  | rst => contradiction
  | nop => rfl
  | tick => simp only [State.after, withOutputs_tickElapsed, withOutputs_tickTimeout]
  | fall => exact withOutputs_fallEdge s f n b
  | rise => exact withOutputs_riseEdge s f n b
  | wdt => exact withOutputs_watchdogTick s f n b
  | getstate => rfl
  | getdata m => exact absurd rfl (hgetdata m)

/-- Settles O40: what a successful GETDATA writes, by `Memory.read_copy`; who else writes, `after_outputs`; who
reads, `withOutputs_after`. -/
theorem outputRegistersBelongToGetdata : Obligations.OutputRegistersBelongToGetdata := by
  refine ⟨fun s t m h fits => ?_, fun i s t h hrst tooLong => ?_, fun i s t f n b h hrst hgetdata => ?_⟩
  all_goals obtain rfl := after_eq_of_exec h
  · rw [State.after, getData_of_le fits]
    simp [Memory.read_copy]
  · exact after_outputs hrst tooLong
  · rw [exec_eq]
    exact congrArg Host.Outcome.next (withOutputs_after s f n b hrst hgetdata)

end Sys2Proof.Machine
end

section
/-! The configuration record is constant (20_memory.md rule R38). No operation writes it, nor the words not yet
sampled; a step takes one of those words and leaves the record as it is. -/

namespace Sys2Proof.Machine

/-- The two fields of the state that no operation writes: the configuration record (rule R38) and the INP words of
the coming cycles. -/
def State.fixedPart (s : State) : Config × List Word := (s.cfg, s.inputs)

variable (s : State)

/-! ### The shared operations -/

@[simp] theorem stampNow_fixedPart (k : Stamp) : (s.stampNow k).fixedPart = s.fixedPart := by cases k <;> rfl
@[simp] theorem clearTs_fixedPart : s.clearTs.fixedPart = s.fixedPart := rfl
@[simp] theorem armTimeout_fixedPart (d : Nat) : (s.armTimeout d).fixedPart = s.fixedPart := rfl
@[simp] theorem fullReset_fixedPart : s.fullReset.fixedPart = s.fixedPart := rfl
@[simp] theorem enterFrame_fixedPart (f : ProtocolFormat) (st : DecoderState) :
    (s.enterFrame f st).fixedPart = s.fixedPart := rfl

@[simp] theorem appendBit_fixedPart (m : BitClass) : (s.appendBit m).fixedPart = s.fixedPart := by
  rw [appendBit_frame]
  rfl

/-! ### The edges -/

theorem fallIdleSecond_fixedPart : s.fallIdleSecond.fixedPart = s.fixedPart := by
  unfold State.fallIdleSecond
  dsimp only
  split <;> simp only [clearTs_fixedPart, enterFrame_fixedPart, fullReset_fixedPart, stampNow_fixedPart]

theorem fallRecvPulseDistance_fixedPart (tu tmo : Nat) :
    (s.fallRecvPulseDistance tu tmo).fixedPart = s.fixedPart := by
  simp only [State.fallRecvPulseDistance, armTimeout_fixedPart, appendBit_fixedPart, stampNow_fixedPart]

theorem riseIdleMark_fixedPart : s.riseIdleMark.fixedPart = s.fixedPart := by
  unfold State.riseIdleMark
  dsimp only
  split
  · rw [enterFrame_fixedPart, stampNow_fixedPart]
  · split
    · rw [fullReset_fixedPart, stampNow_fixedPart]
    · exact stampNow_fixedPart s .c2

theorem riseRecvSony_fixedPart : s.riseRecvSony.fixedPart = s.fixedPart := by
  simp only [State.riseRecvSony, armTimeout_fixedPart, appendBit_fixedPart, stampNow_fixedPart]

/-- The dispatch of FALL (41_idle_edges.md rule R65). -/
theorem fallEdge_fixedPart : s.fallEdge.fixedPart = s.fixedPart := by
  unfold State.fallEdge
  split
  · split
    · exact fallIdleSecond_fixedPart s
    · rfl
  · split
    · exact fallRecvPulseDistance_fixedPart s _ _
    · exact fallRecvPulseDistance_fixedPart s _ _
    all_goals rfl
  · rfl

/-- The dispatch of RISE (41_idle_edges.md rule R66). -/
theorem riseEdge_fixedPart : s.riseEdge.fixedPart = s.fixedPart := by
  unfold State.riseEdge
  split
  · split
    · exact riseIdleMark_fixedPart s
    · rfl
  · split
    · rfl
    · rfl
    · exact riseRecvSony_fixedPart s
    all_goals rfl
  · rfl

/-! ### TICK, WDT, GETDATA -/

theorem tick_fixedPart : (s.after .tick).fixedPart = s.fixedPart := by
  rw [State.after, tickTimeout_frame, tickElapsed_eq]
  rfl

theorem watchdogTick_fixedPart : s.watchdogTick.fixedPart = s.fixedPart := by
  unfold State.watchdogTick
  split
  · split <;> rfl
  · rfl

theorem getData_fixedPart (m : BitVec 16) : (s.getData m).fixedPart = s.fixedPart := by
  obtain tooLong | fits := Nat.lt_or_ge m.toNat s.bitCount
  · rw [getData_of_lt tooLong]
    rfl
  · rw [getData_of_le fits]
    rfl

/-! ### Operations and steps -/

/-- No operation writes the configuration record (rule R38), nor the words not yet sampled. -/
theorem after_fixedPart (i : Instr) : (s.after i).fixedPart = s.fixedPart := by
  cases i with
  | rst => rfl
  | nop => rfl
  | tick => exact tick_fixedPart s
  | fall => exact fallEdge_fixedPart s
  | rise => exact riseEdge_fixedPart s
  | wdt => exact watchdogTick_fixedPart s
  | getstate => rfl
  | getdata m => exact getData_fixedPart s m

theorem after_cfg (i : Instr) : (s.after i).cfg = s.cfg := congrArg Prod.fst (after_fixedPart s i)

theorem after_inputs (i : Instr) : (s.after i).inputs = s.inputs := congrArg Prod.snd (after_fixedPart s i)

/-- A word's operations, one after another, keep the configuration record. -/
theorem foldl_after_cfg (ops : List Instr) : (ops.foldl State.after s).cfg = s.cfg := by
  induction ops generalizing s with
  | nil => rfl
  | cons i ops ih => rw [List.foldl_cons, ih, after_cfg]

/-- Settles O42: `after_fixedPart` for an operation, and for a step `foldl_after_cfg` from the state with its word
taken. -/
theorem configurationIsConstant : Obligations.ConfigurationIsConstant := by
  refine ⟨fun i s t h => ?_, fun s t h => ?_⟩
  · obtain rfl := after_eq_of_exec h
    exact ⟨after_cfg s i, after_inputs s i⟩
  · obtain ⟨ops, -, rfl⟩ := step_next h
    rw [foldl_after_cfg, dropWord_cfg]

end Sys2Proof.Machine
end

section
/-! The decoder of 30_encoding.md (rules R42 to R44): what it answers, case by case, which bits of the word it
reads, and which rows of the operation table a legal word matches. -/

namespace Sys2Proof

variable {w : Word} {ops : Bundle}

/-! ### The answer of decode, case by case (rules R42, R43) -/

theorem decode_of_reserved {why : ReservedClass} (hrst : w.rstBit = false) (h : w.reserved? = some why) :
    decode w = .error why := by
  simp only [decode, hrst, h, Bool.false_eq_true, if_false]

theorem decode_of_not_reserved (hrst : w.rstBit = false) (h : w.reserved? = none) :
    decode w = .ok (orNop w.requests) := by
  simp only [decode, hrst, h, Bool.false_eq_true, if_false]

theorem Word.reserved?_of_zeroField (hzero : w.zeroField ≠ 0) : w.reserved? = some .zeroBits := if_pos hzero

theorem Word.reserved?_of_bothEdges (hzero : w.zeroField = 0) (hedges : w.fallBit = true ∧ w.riseBit = true) :
    w.reserved? = some .bothEdges := by
  rw [Word.reserved?, if_neg (not_not.mpr hzero), if_pos (Bool.and_eq_true_iff.mpr hedges)]

theorem Word.reserved?_of_hop (hzero : w.zeroField = 0) (hedges : ¬(w.fallBit = true ∧ w.riseBit = true))
    (hhop : w.hop = 3) : w.reserved? = some .hostOp3 := by
  rw [Word.reserved?, if_neg (not_not.mpr hzero), if_neg (mt Bool.and_eq_true_iff.mp hedges), if_pos hhop]

/-- A word fails none of the tests when it is in none of the classes of rule R43. -/
theorem Word.reserved?_eq_none_iff :
    w.reserved? = none ↔ w.zeroField = 0 ∧ ¬(w.fallBit = true ∧ w.riseBit = true) ∧ w.hop ≠ 3 := by
  rw [← Bool.and_eq_true]
  unfold Word.reserved?
  split_ifs <;> simp_all

/-- The inversion lemma of decode: a word that is not refused is RST, or all its requests are legal. -/
theorem decode_ok_cases (h : decode w = .ok ops) :
    w.rstBit = true ∧ ops = [.rst] ∨ w.rstBit = false ∧ w.reserved? = none ∧ ops = orNop w.requests := by
  cases hrst : w.rstBit with
  | true =>
    rw [Machine.decode_of_rstBit hrst] at h
    exact .inl ⟨rfl, (Except.ok.inj h).symm⟩
  | false =>
    cases hres : w.reserved? with
    | some why => cases (decode_of_reserved hrst hres).symm.trans h
    | none =>
      rw [decode_of_not_reserved hrst hres] at h
      exact .inr ⟨rfl, rfl, (Except.ok.inj h).symm⟩

/-- A word is reserved exactly when RST is 0 and it fails a test of rule R42. -/
theorem exists_decode_eq_error_iff :
    (∃ why, decode w = .error why) ↔ w.rstBit = false ∧ w.reserved? ≠ none := by
  refine ⟨fun ⟨why, h⟩ => ?_, fun ⟨hrst, hres⟩ => ?_⟩
  · cases hrst : w.rstBit with
    | true => cases (Machine.decode_of_rstBit hrst).symm.trans h
    | false => exact ⟨rfl, fun hres => by cases (decode_of_not_reserved hrst hres).symm.trans h⟩
  · obtain ⟨why, hwhy⟩ := Option.ne_none_iff_exists'.mp hres
    exact ⟨why, decode_of_reserved hrst hwhy⟩

/-! ### MAXBITS is read for GETDATA only (rule R43) -/

theorem getLsbD_and_lowHalf (w : Word) {k : Nat} (hk : k < 16) : (w &&& 0x0000FFFF#32).getLsbD k = w.getLsbD k := by
  have hmask : ∀ k < 16, (0x0000FFFF#32).getLsbD k = true := by decide
  rw [BitVec.getLsbD_and, hmask k hk, Bool.and_true]

theorem extractLsb'_and_lowHalf (w : Word) {start len : Nat} (h : start + len ≤ 16) :
    (w &&& 0x0000FFFF#32).extractLsb' start len = w.extractLsb' start len := by
  refine BitVec.eq_of_getLsbD_eq fun k hk => ?_
  rw [BitVec.getLsbD_extractLsb', BitVec.getLsbD_extractLsb', getLsbD_and_lowHalf w (by omega)]

/-- Every field but MAXBITS lies in the low half, so without GETDATA the high half is not read. -/
theorem decode_and_lowHalf (h : w.hop ≠ 2) : decode (w &&& 0x0000FFFF#32) = decode w := by
  simp (disch := decide) only [decode, Word.reserved?, Word.requests, Word.tickBit, Word.fallBit, Word.riseBit,
    Word.wdtBit, Word.rstBit, Word.hop, Word.zeroField, getLsbD_and_lowHalf, extractLsb'_and_lowHalf, if_neg h]

/-! ### The six request bits -/

/-- INP[5:0]: the fields TICK, FALL, RISE, WDT and HOP together. -/
abbrev Word.requestField (w : Word) : BitVec 6 := w.extractLsb' 0 6

theorem Word.hop_eq_requestField (w : Word) : w.hop = w.requestField.extractLsb' 4 2 := by
  refine BitVec.eq_of_getLsbD_eq fun k hk => ?_
  simp only [BitVec.getLsbD_extractLsb', hk, decide_true, Bool.true_and, Nat.zero_add, show 4 + k < 6 by omega]

/-- With bits 15:6 at 0, the low half is the six request bits. -/
theorem lowHalf_eq_requestField (hrst : w.rstBit = false) (hzero : w.zeroField = 0) :
    w &&& 0x0000FFFF#32 = w.requestField.setWidth 32 := by
  refine BitVec.eq_of_getLsbD_eq fun k hk => ?_
  simp only [BitVec.getLsbD_setWidth, BitVec.getLsbD_extractLsb', hk, decide_true, Bool.true_and, Nat.zero_add]
  obtain hlow | hhigh := Nat.lt_or_ge k 16
  · rw [getLsbD_and_lowHalf w hlow]
    obtain hreq | rfl | hmid : k < 6 ∨ k = 6 ∨ 7 ≤ k := by omega
    · rw [decide_eq_true hreq, Bool.true_and]
    · exact hrst
    · have zeroBit := congrArg (BitVec.getLsbD · (k - 7)) hzero
      simp only [BitVec.getLsbD_extractLsb', show k - 7 < 9 by omega, show 7 + (k - 7) = k by omega] at zeroBit
      simpa [show ¬k < 6 by omega] using zeroBit
  · have hmask : ∀ k < 32, 16 ≤ k → (0x0000FFFF#32).getLsbD k = false := by decide
    rw [BitVec.getLsbD_and, hmask k hk hhigh, Bool.and_false, decide_eq_false (by omega), Bool.false_and]

/-! ### Which operations a word requests (rule R42) -/

theorem mem_orNop {i : Instr} : i ∈ orNop ops ↔ i ∈ ops ∨ ops = [] ∧ i = .nop := by
  cases ops <;> simp [orNop]

theorem mem_requests {i : Instr} :
    i ∈ w.requests ↔
      w.tickBit = true ∧ i = .tick ∨ w.fallBit = true ∧ i = .fall ∨ w.riseBit = true ∧ i = .rise ∨
        w.wdtBit = true ∧ i = .wdt ∨ w.hop = 1 ∧ i = .getstate ∨ w.hop = 2 ∧ i = .getdata w.maxBits := by
  simp only [Word.requests, List.mem_append, List.mem_ite_nil_right, List.mem_singleton, or_assoc]

theorem requests_eq_nil_iff (hhop : w.hop ≠ 3) : w.requests = [] ↔ w.requestField = 0 := by
  have fields : ∀ f : BitVec 6, f.extractLsb' 4 2 ≠ 3 →
      (f = 0 ↔ ¬f.getLsbD 0 ∧ ¬f.getLsbD 1 ∧ ¬f.getLsbD 2 ∧ ¬f.getLsbD 3 ∧
        f.extractLsb' 4 2 ≠ 1 ∧ f.extractLsb' 4 2 ≠ 2) := by decide
  rw [w.hop_eq_requestField] at hhop
  rw [fields _ hhop, ← w.hop_eq_requestField]
  simp [Word.requests]

theorem orNop_requests (hhop : w.hop ≠ 3) :
    orNop w.requests = if w.requestField = 0 then [.nop] else w.requests := by
  simp only [orNop, List.isEmpty_iff, requests_eq_nil_iff hhop]

/-- Whether an operation is requested by the six request bits of a legal word with RST = 0. -/
def Instr.requestedBy (f : BitVec 6) : Instr → Bool
  | .rst => false
  | .nop => f == 0
  | .tick => f.getLsbD 0
  | .fall => f.getLsbD 1
  | .rise => f.getLsbD 2
  | .wdt => f.getLsbD 3
  | .getstate => f.extractLsb' 4 2 == 1
  | .getdata _ => f.extractLsb' 4 2 == 2

theorem mem_orNop_requests (hhop : w.hop ≠ 3) (i : Instr) :
    i ∈ orNop w.requests ↔ i.requestedBy w.requestField = true ∧ ∀ m, i = .getdata m → m = w.maxBits := by
  rw [mem_orNop, mem_requests, requests_eq_nil_iff hhop, w.hop_eq_requestField]
  cases i <;> simp [Instr.requestedBy]

/-! ### The rows of the operation table (rule R44) -/

/-- Within the six request bits, with FALL and RISE not both set, a row's mask and match say what the row's
operation asks for. -/
theorem row_hits_request (i : Instr) :
    ∀ f : BitVec 6, ¬(f.getLsbD 1 = true ∧ f.getLsbD 2 = true) → i.row.hits (f.setWidth 32) = i.requestedBy f := by
  cases i with
  | getdata m =>
    change ∀ f : BitVec 6, _ → (Instr.row (.getdata 0)).hits _ = Instr.requestedBy f (.getdata 0)
    decide
  | _ => decide

theorem row_hits_of_legal (hrst : w.rstBit = false) (hres : w.reserved? = none) (i : Instr) :
    i.row.hits w = i.requestedBy w.requestField := by
  obtain ⟨hzero, hedges, -⟩ := Word.reserved?_eq_none_iff.mp hres
  have mask_low : i.row.mask = 0x0000FFFF#32 &&& i.row.mask := by cases i <;> simp only [Instr.row] <;> decide
  have masked : w &&& i.row.mask = w.requestField.setWidth 32 &&& i.row.mask := by
    calc w &&& i.row.mask
      _ = w &&& 0x0000FFFF#32 &&& i.row.mask := by rw [BitVec.and_assoc, ← mask_low]
      _ = w.requestField.setWidth 32 &&& i.row.mask := by rw [lowHalf_eq_requestField hrst hzero]
  rw [← row_hits_request i w.requestField (by simpa using hedges), TableRow.hits, TableRow.hits, masked]

/-- RST overrides the rest: every other row asks for bit 6 to be 0. -/
theorem row_hits_of_rstBit (hrst : w.rstBit = true) (i : Instr) : i.row.hits w = true ↔ i = .rst := by
  have mask_rstBit : i.row.mask.rstBit = true := by cases i <;> simp [Instr.row]
  have pattern_rstBit : i.row.pattern.rstBit = true ↔ i = .rst := by cases i <;> simp [Instr.row]
  rw [TableRow.hits, beq_iff_eq, ← pattern_rstBit]
  refine ⟨fun h => ?_, fun h => ?_⟩
  · rw [← h, Word.rstBit, BitVec.getLsbD_and, Bool.and_eq_true]
    exact ⟨hrst, mask_rstBit⟩
  · obtain rfl := pattern_rstBit.mp h
    exact (BitVec.and_twoPow w 6).trans (if_pos hrst)

/-- A legal word's bundle holds exactly the operations whose rows it matches. -/
theorem mem_decode_iff_row_hits (h : decode w = .ok ops) (i : Instr) :
    i ∈ ops ↔ i.row.hits w = true ∧ ∀ m, i = .getdata m → m = w.maxBits := by
  obtain ⟨hrst, rfl⟩ | ⟨hrst, hres, rfl⟩ := decode_ok_cases h
  · rw [row_hits_of_rstBit hrst, List.mem_singleton]
    exact ⟨fun hi => ⟨hi, by simp [hi]⟩, And.left⟩
  · obtain ⟨-, -, hhop⟩ := Word.reserved?_eq_none_iff.mp hres
    rw [row_hits_of_legal hrst hres, mem_orNop_requests hhop]

end Sys2Proof
end

section
/-! The statements of 30_encoding.md about words, steps and traces (rules R42 to R45, R48). -/

namespace Sys2Proof.Machine

/-! ### Words and the steps that sample them -/

/-- The step that samples a legal word runs its operations (rule R42). -/
theorem step_of_decode_ok {s : State} {w : Word} {rest : List Word} {ops : Bundle} (hw : s.inputs = w :: rest)
    (h : decode w = .ok ops) : step s = execAll ops { s with inputs := rest } := by
  simp only [step_eq, State.nextWord, State.dropWord, hw, List.headD_cons, List.tail_cons, h, execAll_eq]

/-- The step that samples a reserved word is refused (rule R43). -/
theorem step_of_decode_error {s : State} {w : Word} {rest : List Word} {why : ReservedClass}
    (hw : s.inputs = w :: rest) (h : decode w = .error why) : step s = .refused (.reservedWord why w) := by
  simp only [step_eq, State.nextWord, hw, List.headD_cons, h]

/-- Settles O4: the three classes are the three tests of `Word.reserved?`, and MAXBITS is read with HOP = 2 only. -/
theorem reservedWordsAreRefused : Obligations.ReservedWordsAreRefused := by
  refine ⟨fun w => ?_, fun s w rest why hw h => step_of_decode_error hw h, fun w h => (decode_and_lowHalf h).symm⟩
  rw [exists_decode_eq_error_iff, ne_eq, Word.reserved?_eq_none_iff]
  tauto

/-- Settles O5: each row by `mem_decode_iff_row_hits`. -/
theorem tableRowsSelectTheOperations : Obligations.TableRowsSelectTheOperations := by
  refine ⟨fun w ops h => ?_, rfl, rfl, rfl, rfl, rfl, rfl, rfl, fun _ => rfl⟩
  have row := mem_decode_iff_row_hits h
  simp only [TableRow.hits, beq_iff_eq] at row
  refine ⟨?_, ?_, ?_, ?_, ?_, ?_, ?_, fun m => ?_⟩
  · simpa [Instr.row] using row .rst
  · simpa [Instr.row] using row .nop
  · simpa [Instr.row] using row .tick
  · simpa [Instr.row] using row .fall
  · simpa [Instr.row] using row .rise
  · simpa [Instr.row] using row .wdt
  · simpa [Instr.row] using row .getstate
  · simpa [Instr.row] using row (.getdata m)

/-- Settles O3: the tests one by one in the rule's order, each of which decides `decode`. -/
theorem wordIsAnOrderedBundle : Obligations.WordIsAnOrderedBundle := by
  refine ⟨fun w => ?_, fun s w rest ops hw h => step_of_decode_ok hw h, execAll_nil, fun i ops s t h => ?_⟩
  · by_cases hrst : w.rstBit = true
    · rw [if_pos hrst, decode_of_rstBit hrst]
    rw [if_neg hrst]
    rw [Bool.not_eq_true] at hrst
    by_cases hzero : w.zeroField ≠ 0#9
    · rw [if_pos hzero, decode_of_reserved hrst (Word.reserved?_of_zeroField hzero)]
    rw [if_neg hzero]
    rw [ne_eq, not_not] at hzero
    by_cases hedges : w.fallBit = true ∧ w.riseBit = true
    · rw [if_pos hedges, decode_of_reserved hrst (Word.reserved?_of_bothEdges hzero hedges)]
    rw [if_neg hedges]
    by_cases hhop : w.hop = 3#2
    · rw [if_pos hhop, decode_of_reserved hrst (Word.reserved?_of_hop hzero hedges hhop)]
    rw [if_neg hhop, decode_of_not_reserved hrst (Word.reserved?_eq_none_iff.mpr ⟨hzero, hedges, hhop⟩),
      orNop_requests hhop]
    exact apply_ite Except.ok _ _ _
  · rw [execAll_cons, after_eq_of_exec h]

/-- Settles O7: the numbers the definitions give. -/
theorem enumerationNumbers : Obligations.EnumerationNumbers := ⟨rfl, rfl, rfl, rfl, rfl, rfl, rfl, rfl, rfl⟩

/-! ### Pseudo-operations -/

theorem assemble_singleton (item : TraceItem) : assemble [item] = item.cycles.map encodeBundle := by
  rw [assemble, List.flatMap_singleton]

/-- A bundle of one operation assembles to the operation's word (rule R47). -/
theorem encodeBundle_singleton (i : Instr) : encodeBundle [i] = encode i := BitVec.or_zero

theorem map_encodeBundle_oneEach (ops : List Instr) : (oneEach ops).map encodeBundle = ops.map encode := by
  simp only [oneEach, List.map_map, Function.comp_def, encodeBundle_singleton]

theorem map_encode_advOps (n : Nat) : (advOps n).map encode = List.replicate n 0x00000001#32 := List.map_replicate

/-- Settles O8: every pseudo-operation is a list of operations, one per word, and TICKs assemble to the TICK word. -/
theorem pseudoOperationsExpand : Obligations.PseudoOperationsExpand := by
  unfold Obligations.PseudoOperationsExpand
  simp only [assemble_singleton, TraceItem.cycles, map_encodeBundle_oneEach, List.map_append, List.map_cons,
    List.map_nil, List.map_flatten, List.map_replicate, map_encode_advOps, List.append_assoc, List.cons_append,
    List.nil_append]
  exact ⟨fun _ => trivial, fun _ => rfl, fun _ => rfl, fun _ _ => rfl, fun _ _ => rfl, fun _ => rfl⟩

end Sys2Proof.Machine
end

section
/-! The timing classifier and the micro-operations of 40_primitives.md: the timeout count under TICKs (rule R56), what
AppendBit writes and signals (rule R58), the tolerance band (rule R51) and the resets (rules R54, R55, R57). -/

namespace Sys2Proof.Machine

/-! ### TICKs on an armed timeout (rule R56, 43_tick_timeout.md rules R85, R86) -/

section ArmedTicks

variable {s : State} (armed : s.tmoArmed = true)
include armed

/-- With more than one TICK pending, a TICK writes ELAPSED and takes one off TMO_CNT. -/
theorem after_tick_counts (pending : 1 < s.tmoCnt) :
    ∃ e, s.after .tick = { s with elapsed := e, tmoCnt := s.tmoCnt - 1 } := by
  rw [State.after, tickElapsed_eq]
  exact ⟨_, tickTimeout_counts armed pending⟩

/-- In Receiving, the last pending TICK ends the frame. -/
theorem after_tick_fires (receiving : s.state = .receiving) (last : s.tmoCnt = 1) :
    ∃ e, s.after .tick =
      { s with state := .received, elapsed := e, tmoCnt := 0, tmoArmed := false }.clearTs := by
  rw [State.after, tickElapsed_eq]
  exact ⟨_, Eq.trans (tickTimeout_fires armed last.le) (tmoFire_of_receiving receiving)⟩

/-- Fewer TICKs than are pending write ELAPSED and take their number off TMO_CNT. -/
theorem ticks_count {k : Nat} (early : k < s.tmoCnt) :
    ∃ e, (List.replicate k .tick).foldl State.after s = { s with elapsed := e, tmoCnt := s.tmoCnt - k } := by
  induction k with
  | zero => exact ⟨s.elapsed, rfl⟩
  | succ k ih =>
    obtain ⟨e, before⟩ := ih (Nat.lt_of_succ_lt early)
    rw [List.replicate_succ', List.foldl_append, before]
    exact after_tick_counts (s := { s with elapsed := e, tmoCnt := s.tmoCnt - k }) armed
      (show 1 < s.tmoCnt - k by omega)

/-- In Receiving, as many TICKs as are pending end the frame. -/
theorem ticks_fire (receiving : s.state = .receiving) (pending : 1 ≤ s.tmoCnt) :
    ∃ e, (List.replicate s.tmoCnt .tick).foldl State.after s =
      { s with state := .received, elapsed := e, tmoCnt := 0, tmoArmed := false }.clearTs := by
  obtain ⟨k, hk⟩ := Nat.exists_eq_add_of_le' pending
  obtain ⟨e, before⟩ := ticks_count armed (show k < s.tmoCnt by omega)
  rw [hk, List.replicate_succ', List.foldl_append, before]
  exact after_tick_fires (s := { s with elapsed := e, tmoCnt := s.tmoCnt - k }) armed receiving
    (show s.tmoCnt - k = 1 by omega)

end ArmedTicks

/-- Settles O19: `ticks_count` before the d-th TICK, `ticks_fire` at it. -/
theorem armedTimeoutFiresAtTheDthTick : Obligations.ArmedTimeoutFiresAtTheDthTick := by
  refine fun s d positive => ⟨rfl, fun receiving => ⟨fun k early => ?_, ?_⟩⟩
  · obtain ⟨e, he⟩ := ticks_count (s := s.armTimeout d) rfl early
    exact ⟨_, execAll_eq _ _, he ▸ ⟨receiving, rfl, rfl⟩⟩
  · obtain ⟨e, he⟩ := ticks_fire (s := s.armTimeout d) rfl receiving positive
    exact ⟨_, execAll_eq _ _, he ▸ ⟨rfl, rfl, rfl, ⟨rfl, rfl, rfl, rfl, rfl⟩, rfl, rfl, rfl⟩⟩

/-! ### AppendBit (rule R58) -/

/-- At CAP_BITS the bit is dropped. -/
theorem appendBit_of_full {s : State} (m : BitClass) (full : s.cfg.capBits ≤ s.bitCount) : s.appendBit m = s :=
  if_neg (Nat.not_lt.2 full)

theorem ambiguousBitTiming_mem_appendSignals (s : State) (m : BitClass) :
    .ambiguousBitTiming ∈ appendSignals s m ↔ m = .noMatch := by
  simp [appendSignals]

theorem frameOverflow_mem_appendSignals (s : State) (m : BitClass) :
    .frameOverflow ∈ appendSignals s m ↔ s.cfg.capBits ≤ s.bitCount := by
  simp [appendSignals]

/-- Settles O21: `appendBit_bitCount` and `appendBit_bit` below the capacity, `appendBit_of_full` at it. -/
theorem appendBitWritesOneBit : Obligations.AppendBitWritesOneBit := by
  refine fun s m => ⟨fun room => ⟨?_, ?_, fun i other => ?_⟩, appendBit_of_full m, appendBit_frame s m,
    ambiguousBitTiming_mem_appendSignals s m, frameOverflow_mem_appendSignals s m⟩
  · exact (appendBit_bitCount s m).trans (if_pos room)
  · exact (appendBit_bit s m s.bitCount).trans (if_pos ⟨room, rfl⟩)
  · exact (appendBit_bit s m i).trans (if_neg fun ⟨_, same⟩ => other same)

/-! ### The nominal durations and the tolerance band (rules R50, R51) -/

/-- Settles O14: the products k·Tu, computed. -/
theorem nominalDurations : Obligations.NominalDurations := by
  unfold Obligations.NominalDurations
  decide

theorem inRange_some (c : Config) (x n : Nat) :
    inRange c (some x) n = true ↔ c.tolLoNum * n < c.tolLoDen * x ∧ c.tolHiDen * x < c.tolHiNum * n := by
  simp [inRange]

/-- Multiplied by 10, the band is a comparison of natural numbers. -/
theorem openBand_iff (x n : Nat) :
    (7 / 10 : ℚ) * n < x ∧ (x : ℚ) < 13 / 10 * n ↔ 7 * n < 10 * x ∧ 10 * x < 13 * n := by
  have ten_pos : (0 : ℚ) < 10 := by norm_num
  rw [div_mul_eq_mul_div, div_mul_eq_mul_div, div_lt_iff₀' ten_pos, lt_div_iff₀' ten_pos]
  norm_cast

/-- Settles O15: `inRange_some` is the integer comparison, and `openBand_iff` the rational one. -/
theorem inRangeIsTheOpenBand : Obligations.InRangeIsTheOpenBand := by
  intro c x n loNum loDen hiNum hiDen
  have integers : inRange c (some x) n = true ↔ 7 * n < 10 * x ∧ 10 * x < 13 * n := by
    rw [inRange_some, loNum, loDen, hiNum, hiDen]
  exact ⟨integers.trans (openBand_iff x n).symm, integers, rfl⟩

/-! ### ClearTs, CancelTimeout, FullReset, NOP (rules R54, R55, R57, R59) -/

@[simp] theorem clearTs_anyStamp (s : State) : s.clearTs.anyStamp = false :=
  (anyStamp_eq_false _).2 ⟨rfl, rfl, rfl, rfl, rfl⟩

/-- Cancelling when nothing is armed changes nothing. -/
theorem cancelTimeout_of_disarmed {s : State} (disarmed : s.tmoArmed = false) (zero : s.tmoCnt = 0) :
    s.cancelTimeout = s := by
  rw [State.cancelTimeout, ← disarmed, ← zero]

/-- Settles O18: the two updates as defined, `clearTs_anyStamp` and `cancelTimeout_of_disarmed`. -/
theorem clearTsAndCancelTimeout : Obligations.ClearTsAndCancelTimeout := fun s =>
  ⟨rfl, clearTs_anyStamp s, rfl, cancelTimeout_of_disarmed⟩

theorem fullReset_stampsUnset (s : State) : s.fullReset.stampsUnset := ⟨rfl, rfl, rfl, rfl, rfl⟩

@[simp] theorem fullReset_fullReset (s : State) : s.fullReset.fullReset = s.fullReset := rfl

/-- Settles O20, field by field. -/
theorem fullResetValues : Obligations.FullResetValues := fun s =>
  ⟨⟨rfl, rfl, rfl, Memory.read_nil, fullReset_stampsUnset s, rfl, rfl, rfl, rfl⟩,
    ⟨rfl, rfl, rfl, rfl, rfl, rfl, rfl, rfl⟩, fullReset_fullReset s⟩

/-- Settles O23: the word 0 requests nothing, which is NOP (30_encoding.md rule R42). -/
theorem nopChangesNothing : Obligations.NopChangesNothing := ⟨rfl, exec_eq .nop⟩

end Sys2Proof.Machine
end

section
/-! The edges in Idle (41_idle_edges.md rules R67, R68, R69): the leader's mark and space as differences, the state each
edge leads to, case by case, and what it signals. -/

namespace Sys2Proof.Machine

/-! ### Differences with one timestamp set (40_primitives.md rule R53) -/

theorem diffOf_some_left (p : Nat) (q : Option Nat) : diffOf (some p) q = q.map fun t => p - t := by
  cases q <;> rfl

theorem diffOf_some_right (p : Option Nat) (q : Nat) : diffOf p (some q) = p.map fun t => t - q := by
  cases p <;> rfl

/-! ### The first falling edge (rule R67) -/

section FirstEdge

variable {s : State} (idle : s.state = .idle) (unset : s.c1 = none)
include unset

theorem valid_c1_of_unset : s.valid .c1 = false := congrArg Option.isSome unset

include idle

theorem exec_fall_first : exec .fall s = .next s.fallIdleFirst := by
  simp only [exec_eq, State.after, State.fallEdge, idle, valid_c1_of_unset unset, Bool.false_eq_true, if_false]

theorem signals_fall_first : signals .fall s = [] := by
  simp only [signals, fallSignals, idle, valid_c1_of_unset unset, Bool.false_eq_true, if_false]

end FirstEdge

/-- Settles O27: `fallIdleFirst` as defined. -/
theorem firstFallStartsALeader : Obligations.FirstFallStartsALeader := fun _ idle unset =>
  ⟨exec_fall_first idle unset, signals_fall_first idle unset⟩

/-! ### With T[c1] set -/

section LeaderPending

variable {s : State} {t1 : Nat} (idle : s.state = .idle) (stamped : s.c1 = some t1)
include stamped

theorem valid_c1_of_set : s.valid .c1 = true := congrArg Option.isSome stamped

/-- The mark and the space rule R68 tests: both are none when T[c2] is unset. -/
theorem leaderClass_stampNow_c3 :
    (s.stampNow .c3).leaderClass =
      classifyLeader s.cfg (s.c2.map fun t2 => t2 - t1) (s.c2.map fun t2 => s.elapsed - t2) := by
  have mark : (s.stampNow .c3).diff .c2 .c1 = s.c2.map fun t2 => t2 - t1 :=
    (congrArg (diffOf s.c2) stamped).trans (diffOf_some_right s.c2 t1)
  have space : (s.stampNow .c3).diff .c3 .c2 = s.c2.map fun t2 => s.elapsed - t2 := diffOf_some_left s.elapsed s.c2
  rw [State.leaderClass, mark, space]
  rfl

include idle

theorem exec_fall_second : exec .fall s = .next s.fallIdleSecond := by
  simp only [exec_eq, State.after, State.fallEdge, idle, valid_c1_of_set stamped, if_true]

theorem signals_fall_of_leader {f : ProtocolFormat} (leader : (s.stampNow .c3).leaderClass = some f) :
    signals .fall s = [] := by
  simp only [signals, fallSignals, idle, valid_c1_of_set stamped, if_true, leader]

theorem signals_fall_of_mismatch (mismatch : (s.stampNow .c3).leaderClass = none) :
    signals .fall s = [.protocolMismatch] := by
  simp only [signals, fallSignals, idle, valid_c1_of_set stamped, if_true, mismatch]

end LeaderPending

/-! ### The second falling edge (rule R68): one equation for each class of leader -/

section Classes

variable {s : State}

theorem fallIdleSecond_nec (leader : (s.stampNow .c3).leaderClass = some .nec) :
    s.fallIdleSecond = (s.stampNow .c3).enterFrame .nec .receiving := by
  simp only [State.fallIdleSecond, leader]

theorem fallIdleSecond_necRepeat (leader : (s.stampNow .c3).leaderClass = some .necRepeat) :
    s.fallIdleSecond = (s.enterFrame .necRepeat .received).clearTs := by
  simp only [State.fallIdleSecond, leader]
  rfl

theorem fallIdleSecond_aeha (leader : (s.stampNow .c3).leaderClass = some .aeha) :
    s.fallIdleSecond = (s.stampNow .c3).enterFrame .aeha .receiving := by
  simp only [State.fallIdleSecond, leader]

theorem fallIdleSecond_aehaRepeat (leader : (s.stampNow .c3).leaderClass = some .aehaRepeat) :
    s.fallIdleSecond = (s.enterFrame .aehaRepeat .received).clearTs := by
  simp only [State.fallIdleSecond, leader]
  rfl

theorem fallIdleSecond_mismatch (mismatch : (s.stampNow .c3).leaderClass = none) :
    s.fallIdleSecond = s.fullReset := by
  simp only [State.fallIdleSecond, mismatch]
  rfl

end Classes

/-- The four tests of rule R68 on a mark and a space, in its order. -/
theorem classifyLeader_eq (c : Config) (a b : Option Nat) :
    classifyLeader c a b =
      if inRange c a c.nNecMark = true ∧ inRange c b c.nNecSpace = true then some .nec
      else if inRange c a c.nNecrMark = true ∧ inRange c b c.nNecrSpace = true then some .necRepeat
      else if inRange c a c.nAehaMark = true ∧ inRange c b c.nAehaSpace = true then some .aeha
      else if inRange c a c.nAeharMark = true ∧ inRange c b c.nAeharSpace = true then some .aehaRepeat
      else none := by
  simp only [classifyLeader, Bool.and_eq_true]

/-- A mismatch is the failure of all four tests. -/
theorem classifyLeader_eq_none_iff (c : Config) (a b : Option Nat) :
    classifyLeader c a b = none ↔
      ¬((inRange c a c.nNecMark = true ∧ inRange c b c.nNecSpace = true) ∨
        (inRange c a c.nNecrMark = true ∧ inRange c b c.nNecrSpace = true) ∨
        (inRange c a c.nAehaMark = true ∧ inRange c b c.nAehaSpace = true) ∨
        (inRange c a c.nAeharMark = true ∧ inRange c b c.nAeharSpace = true)) := by
  simp only [classifyLeader_eq, ite_eq_iff, reduceCtorEq, and_false, false_or, and_true, not_or]

/-- Settles O28: the tests of `classifyLeader_eq` that fail and the one that holds give the class, and the class gives
the next state and the signal. -/
theorem secondFallClassifiesTheLeader : Obligations.SecondFallClassifiesTheLeader := by
  intro s t1 idle stamped
  have next {t : State} (h : s.fallIdleSecond = t) : exec .fall s = .next t :=
    (exec_fall_second idle stamped).trans (congrArg _ h)
  have leader := leaderClass_stampNow_c3 stamped
  have tests := leader.trans (classifyLeader_eq _ _ _)
  refine ⟨fun nec => ?_, fun nec necR => ?_, fun nec necR aeha => ?_, fun nec necR aeha aehaR => ?_,
    fun nec necR aeha aehaR => ?_, fun hit => ?_⟩
  · exact next (fallIdleSecond_nec (tests.trans (if_pos nec)))
  · exact next (fallIdleSecond_necRepeat (tests.trans ((if_neg nec).trans (if_pos necR))))
  · exact next (fallIdleSecond_aeha (tests.trans ((if_neg nec).trans ((if_neg necR).trans (if_pos aeha)))))
  · exact next (fallIdleSecond_aehaRepeat
      (tests.trans ((if_neg nec).trans ((if_neg necR).trans ((if_neg aeha).trans (if_pos aehaR))))))
  · have mismatch := tests.trans ((if_neg nec).trans ((if_neg necR).trans ((if_neg aeha).trans (if_neg aehaR))))
    exact ⟨next (fallIdleSecond_mismatch mismatch), signals_fall_of_mismatch idle stamped mismatch⟩
  · obtain ⟨f, hf⟩ := Option.ne_none_iff_exists'.1 fun mismatch => (classifyLeader_eq_none_iff _ _ _).1 mismatch hit
    exact signals_fall_of_leader idle stamped (leader.trans hf)

/-! ### The rising edge (rule R69) -/

theorem isBelow_some (x bound : Nat) : isBelow (some x) bound = true ↔ x < bound := decide_eq_true_iff

section FirstMark

variable {s : State} {t1 : Nat} (stamped : s.c1 = some t1)
include stamped

/-- The mark rule R69 tests. -/
theorem diff_stampNow_c2 : (s.stampNow .c2).diff .c2 .c1 = some (s.elapsed - t1) :=
  congrArg (diffOf (some s.elapsed)) stamped

theorem riseIdleMark_eq :
    s.riseIdleMark =
      if inRange s.cfg (some (s.elapsed - t1)) s.cfg.nSonyLeader = true then
        (s.stampNow .c2).enterFrame .sony .receiving
      else if s.elapsed - t1 < s.cfg.minLeader then s.fullReset
      else s.stampNow .c2 := by
  simp only [State.riseIdleMark, diff_stampNow_c2 stamped, isBelow_some]
  rfl

theorem exec_rise_mark (idle : s.state = .idle) : exec .rise s = .next s.riseIdleMark := by
  simp only [exec_eq, State.after, State.riseEdge, idle, valid_c1_of_set stamped, if_true]

theorem signals_rise_mark (idle : s.state = .idle) :
    signals .rise s =
      if inRange s.cfg (some (s.elapsed - t1)) s.cfg.nSonyLeader = true then []
      else if s.elapsed - t1 < s.cfg.minLeader then [.protocolMismatch]
      else [] := by
  simp only [signals, riseSignals, idle, valid_c1_of_set stamped, if_true, diff_stampNow_c2 stamped, isBelow_some]
  rfl

end FirstMark

/-- Settles O29: `riseIdleMark_eq` and `signals_rise_mark`, under the conditions of each outcome. -/
theorem riseInIdleTriesSonyThenNoise : Obligations.RiseInIdleTriesSonyThenNoise := by
  intro s t1 idle stamped
  have next {t : State} (h : s.riseIdleMark = t) : exec .rise s = .next t :=
    (exec_rise_mark stamped idle).trans (congrArg _ h)
  have state := riseIdleMark_eq stamped
  have signal := signals_rise_mark stamped idle
  refine ⟨fun sony => ⟨next (state.trans (if_pos sony)), signal.trans (if_pos sony)⟩, fun sony noise => ?_,
    fun sony wait => ?_⟩
  · exact ⟨next (state.trans ((if_neg sony).trans (if_pos noise))),
      signal.trans ((if_neg sony).trans (if_pos noise))⟩
  · have quiet := Nat.not_lt.2 wait
    exact ⟨next (state.trans ((if_neg sony).trans (if_neg quiet))),
      signal.trans ((if_neg sony).trans (if_neg quiet))⟩

end Sys2Proof.Machine
end

section
/-! The edges in Receiving and Received (42_receiving_edges.md rules R75 to R80): one equation for each arm of the two
dispatches, and what each arm signals. -/

namespace Sys2Proof.Machine

variable {s : State}

/-- The interval rules R75 and R78 classify: none when T[d1] is unset. -/
theorem diff_stampNow_d2 (s : State) : (s.stampNow .d2).diff .d2 .d1 = s.d1.map fun t => s.elapsed - t :=
  diffOf_some_left s.elapsed s.d1

/-! ### Receiving -/

section Receiving

variable (receiving : s.state = .receiving)
include receiving

/-! The edge that decodes a bit. -/

section PulseDistance

variable {tu tmo : Nat}
  (format : (s.format = .nec ∧ tu = s.cfg.tuNec ∧ tmo = s.cfg.tmoNec) ∨
    (s.format = .aeha ∧ tu = s.cfg.tuAeha ∧ tmo = s.cfg.tmoAeha))
include format

theorem fallEdge_pulseDistance :
    s.fallEdge =
      ((s.stampNow .d2).appendBit (classifySpace s.cfg tu (s.d1.map fun t => s.elapsed - t))).armTimeout tmo := by
  rw [← diff_stampNow_d2]
  obtain ⟨nec, rfl, rfl⟩ | ⟨aeha, rfl, rfl⟩ := format
  · simp only [State.fallEdge, receiving, nec]
    rfl
  · simp only [State.fallEdge, receiving, aeha]
    rfl

theorem signals_fall_pulseDistance :
    signals .fall s =
      appendSignals (s.stampNow .d2) (classifySpace s.cfg tu (s.d1.map fun t => s.elapsed - t)) := by
  rw [← diff_stampNow_d2]
  obtain ⟨nec, rfl, -⟩ | ⟨aeha, rfl, -⟩ := format
  · simp only [signals, fallSignals, receiving, nec]
    rfl
  · simp only [signals, fallSignals, receiving, aeha]
    rfl

end PulseDistance

section Sony

variable (sony : s.format = .sony)
include sony

theorem riseEdge_sony :
    s.riseEdge =
      ((s.stampNow .d2).appendBit
        (classifySonyMark s.cfg (s.d1.map fun t => s.elapsed - t))).armTimeout s.cfg.tmoSony := by
  rw [← diff_stampNow_d2]
  simp only [State.riseEdge, receiving, sony]
  rfl

theorem signals_rise_sony :
    signals .rise s =
      appendSignals (s.stampNow .d2) (classifySonyMark s.cfg (s.d1.map fun t => s.elapsed - t)) := by
  rw [← diff_stampNow_d2]
  simp only [signals, riseSignals, receiving, sony]
  rfl

/-! The other edge. -/

theorem fallEdge_sony : s.fallEdge = s.stampNow .d1 := by
  simp only [State.fallEdge, receiving, sony, State.fallRecvSony]

end Sony

theorem riseEdge_pulseDistance (format : s.format = .nec ∨ s.format = .aeha) : s.riseEdge = s.stampNow .d1 := by
  obtain nec | aeha := format
  · simp only [State.riseEdge, receiving, nec, State.riseRecvPulseDistance]
  · simp only [State.riseEdge, receiving, aeha, State.riseRecvPulseDistance]

end Receiving

/-- Settles O31: the arm of NEC and AEHA, with the two band tests of `classifySpace` in the rule's order. -/
theorem fallDecodesASpace : Obligations.FallDecodesASpace := fun s _ _ receiving format =>
  ⟨(exec_eq .fall s).trans (congrArg _ (fallEdge_pulseDistance receiving format)),
    signals_fall_pulseDistance receiving format⟩

/-- Settles O32: the arm of SONY, with the two band tests of `classifySonyMark`. -/
theorem riseDecodesASonyMark : Obligations.RiseDecodesASonyMark := fun s receiving sony =>
  ⟨(exec_eq .rise s).trans (congrArg _ (riseEdge_sony receiving sony)), signals_rise_sony receiving sony⟩

/-- Settles O33: the arms of the edge that does not decode. -/
theorem nonDecodingEdgeStampsD1 : Obligations.NonDecodingEdgeStampsD1 := fun s receiving =>
  ⟨fun format => (exec_eq .rise s).trans (congrArg _ (riseEdge_pulseDistance receiving format)),
    fun sony => (exec_eq .fall s).trans (congrArg _ (fallEdge_sony receiving sony))⟩

/-! ### Edges that are ignored (rules R79, R80) -/

/-- The states in which no edge has a meaning: Received, and Receiving with a format that is not received. -/
def State.ignoresEdges (s : State) : Prop :=
  s.state = .received ∨ (s.state = .receiving ∧ s.format ≠ .nec ∧ s.format ≠ .aeha ∧ s.format ≠ .sony)

theorem format_of_not_received {f : ProtocolFormat} (nec : f ≠ .nec) (aeha : f ≠ .aeha) (sony : f ≠ .sony) :
    f = .unknown ∨ f = .necRepeat ∨ f = .aehaRepeat := by
  cases f <;> simp_all

theorem fallEdge_of_ignoresEdges (ignores : s.ignoresEdges) : s.fallEdge = s ∧ fallSignals s = [] := by
  obtain received | ⟨receiving, nec, aeha, sony⟩ := ignores
  · simp only [State.fallEdge, fallSignals, received, and_self]
  · obtain format | format | format := format_of_not_received nec aeha sony
    all_goals simp only [State.fallEdge, fallSignals, receiving, format, and_self]

theorem riseEdge_of_ignoresEdges (ignores : s.ignoresEdges) : s.riseEdge = s ∧ riseSignals s = [] := by
  obtain received | ⟨receiving, nec, aeha, sony⟩ := ignores
  · simp only [State.riseEdge, riseSignals, received, and_self]
  · obtain format | format | format := format_of_not_received nec aeha sony
    all_goals simp only [State.riseEdge, riseSignals, receiving, format, and_self]

/-- Settles O34: both dispatches fall through. -/
theorem edgesIgnored : Obligations.EdgesIgnored := by
  rintro s i (rfl | rfl) ignores
  · obtain ⟨same, quiet⟩ := fallEdge_of_ignoresEdges ignores
    exact ⟨(exec_eq .fall s).trans (congrArg _ same), quiet⟩
  · obtain ⟨same, quiet⟩ := riseEdge_of_ignoresEdges ignores
    exact ⟨(exec_eq .rise s).trans (congrArg _ same), quiet⟩

end Sys2Proof.Machine
end

section
/-! The complete transition table of STATE and FORMAT (42_receiving_edges.md rule R83): what each operation does to the
pair, with the condition of each row, and that every other case leaves it unchanged. -/

namespace Sys2Proof.Machine

/-- The sequencing state (STATE, FORMAT) of rule R83. -/
def State.sequencing (s : State) : DecoderState × ProtocolFormat := (s.state, s.format)

variable (s : State)

/-! ### The shared operations -/

@[simp] theorem stampNow_sequencing (k : Stamp) : (s.stampNow k).sequencing = s.sequencing := by cases k <;> rfl
@[simp] theorem armTimeout_sequencing (d : Nat) : (s.armTimeout d).sequencing = s.sequencing := rfl
@[simp] theorem fullReset_sequencing : s.fullReset.sequencing = (.idle, .unknown) := rfl

@[simp] theorem appendBit_sequencing (m : BitClass) : (s.appendBit m).sequencing = s.sequencing := by
  rw [appendBit_frame]
  rfl

/-! ### The edges outside Idle change neither register -/

/-- Outside Idle an edge meets a format it decodes, or it is ignored (rules R75 to R80). -/
theorem edge_cases_of_not_idle (notIdle : s.state ≠ .idle) :
    (s.state = .receiving ∧ (s.format = .nec ∨ s.format = .aeha)) ∨
      (s.state = .receiving ∧ s.format = .sony) ∨ s.ignoresEdges := by
  unfold State.ignoresEdges
  cases state : s.state with
  | idle => contradiction
  | received => exact .inr (.inr (.inl rfl))
  | receiving => tauto

variable {s}

theorem fallEdge_sequencing_of_not_idle (notIdle : s.state ≠ .idle) : s.fallEdge.sequencing = s.sequencing := by
  obtain ⟨receiving, nec | aeha⟩ | ⟨receiving, sony⟩ | ignores := edge_cases_of_not_idle s notIdle
  · rw [fallEdge_pulseDistance receiving (.inl ⟨nec, rfl, rfl⟩)]
    simp only [armTimeout_sequencing, appendBit_sequencing, stampNow_sequencing]
  · rw [fallEdge_pulseDistance receiving (.inr ⟨aeha, rfl, rfl⟩)]
    simp only [armTimeout_sequencing, appendBit_sequencing, stampNow_sequencing]
  · rw [fallEdge_sony receiving sony, stampNow_sequencing]
  · rw [(fallEdge_of_ignoresEdges ignores).1]

theorem riseEdge_sequencing_of_not_idle (notIdle : s.state ≠ .idle) : s.riseEdge.sequencing = s.sequencing := by
  obtain ⟨receiving, format⟩ | ⟨receiving, sony⟩ | ignores := edge_cases_of_not_idle s notIdle
  · rw [riseEdge_pulseDistance receiving format, stampNow_sequencing]
  · rw [riseEdge_sony receiving sony]
    simp only [armTimeout_sequencing, appendBit_sequencing, stampNow_sequencing]
  · rw [(riseEdge_of_ignoresEdges ignores).1]

/-! ### The edges in Idle -/

section Idle

variable (idle : s.state = .idle)
include idle

/-- The rows of the falling edge (41_idle_edges.md rule R68): the first one, with T[c1] unset, has none (rule R67). -/
theorem fallEdge_sequencing_idle :
    s.fallEdge.sequencing =
      let mark := s.c1.bind fun t1 => s.c2.map fun t2 => t2 - t1
      let space := s.c2.map fun t2 => s.elapsed - t2
      if s.c1.isSome = true then
        if inRange s.cfg mark s.cfg.nNecMark = true ∧ inRange s.cfg space s.cfg.nNecSpace = true then
          (.receiving, .nec)
        else if inRange s.cfg mark s.cfg.nNecrMark = true ∧ inRange s.cfg space s.cfg.nNecrSpace = true then
          (.received, .necRepeat)
        else if inRange s.cfg mark s.cfg.nAehaMark = true ∧ inRange s.cfg space s.cfg.nAehaSpace = true then
          (.receiving, .aeha)
        else if inRange s.cfg mark s.cfg.nAeharMark = true ∧ inRange s.cfg space s.cfg.nAeharSpace = true then
          (.received, .aehaRepeat)
        else (.idle, .unknown)
      else s.sequencing := by
  cases stamped : s.c1 with
  | none =>
    have firstFall : s.fallEdge = s.fallIdleFirst := after_eq_of_exec (exec_fall_first idle stamped)
    rw [firstFall]
    rfl
  | some t1 =>
    have secondFall : s.fallEdge = s.fallIdleSecond := after_eq_of_exec (exec_fall_second idle stamped)
    have leader := (leaderClass_stampNow_c3 stamped).trans (classifyLeader_eq _ _ _)
    rw [secondFall]
    simp only [Option.isSome_some, if_true, Option.bind_some]
    split_ifs at leader ⊢
    · rw [fallIdleSecond_nec leader]; rfl
    · rw [fallIdleSecond_necRepeat leader]; rfl
    · rw [fallIdleSecond_aeha leader]; rfl
    · rw [fallIdleSecond_aehaRepeat leader]; rfl
    · rw [fallIdleSecond_mismatch leader, fullReset_sequencing]

/-- The rows of the rising edge (rules R69, R70): with T[c1] unset the mark is none, which is in no band and, as a stray
edge, resets like noise. -/
theorem riseEdge_sequencing_idle :
    s.riseEdge.sequencing =
      let firstMark := s.c1.map fun t1 => s.elapsed - t1
      if inRange s.cfg firstMark s.cfg.nSonyLeader = true then (.receiving, .sony)
      else if (firstMark.all fun a => decide (a < s.cfg.minLeader)) = true then (.idle, .unknown)
      else s.sequencing := by
  cases stamped : s.c1 with
  | none =>
    simp only [State.riseEdge, idle, valid_c1_of_unset stamped]
    rfl
  | some t1 =>
    have mark : s.riseEdge = s.riseIdleMark := after_eq_of_exec (exec_rise_mark stamped idle)
    simp only [mark, riseIdleMark_eq stamped, apply_ite State.sequencing, Option.map_some, Option.all_some,
      decide_eq_true_eq]
    rfl

end Idle

/-! ### TICK, WDT, GETDATA -/

theorem tmoFire_sequencing (s : State) :
    s.tmoFire.sequencing = if s.state = .receiving then (.received, s.format) else s.sequencing := by
  unfold State.tmoFire
  exact apply_ite State.sequencing _ _ _

/-- The timeout's row: an armed count of at most 1 reaches 0 at this TICK (43_tick_timeout.md rule R85). -/
theorem tickTimeout_sequencing (s : State) :
    s.tickTimeout.sequencing =
      if s.state = .receiving ∧ s.tmoArmed = true ∧ s.tmoCnt ≤ 1 then (.received, s.format) else s.sequencing := by
  cases armed : s.tmoArmed with
  | false => simp [tickTimeout_disarmed armed]
  | true =>
    obtain pending | last := Nat.lt_or_ge 1 s.tmoCnt
    · rw [tickTimeout_counts armed pending, if_neg (by omega)]
      rfl
    · rw [tickTimeout_fires armed last, tmoFire_sequencing]
      simp only [last, and_true]
      rfl

theorem busy_iff_not_rest (s : State) : s.busy = true ↔ s.state ≠ .idle ∨ ¬s.stampsUnset := by
  rw [busy_iff, State.stampsUnset, ← anyStamp_eq_false, Bool.not_eq_false]

/-- The watchdog's row: a busy block whose count would exceed WD_THRESHOLD (44_watchdog.md rule R90). -/
theorem watchdogTick_sequencing (s : State) :
    s.watchdogTick.sequencing =
      if (s.state ≠ .idle ∨ ¬s.stampsUnset) ∧ s.cfg.wdThreshold < s.wdCnt + 1 then (.idle, .unknown)
      else s.sequencing := by
  simp only [← busy_iff_not_rest, ite_and, State.watchdogTick, apply_ite State.sequencing]
  rfl

/-- The consumer's row: a successful GETDATA consumes the frame (45_host_api.md rule R96). -/
theorem getData_sequencing (s : State) (m : BitVec 16) :
    (s.getData m).sequencing = if s.bitCount ≤ m.toNat then (.idle, .unknown) else s.sequencing := by
  obtain tooLong | fits := Nat.lt_or_ge m.toNat s.bitCount
  · rw [getData_of_lt tooLong, if_neg (Nat.not_le.2 tooLong)]
    rfl
  · rw [getData_of_le fits, if_pos fits]
    rfl

/-! ### The table -/

/-- Settles O44: the rows of each operation; the edges have none outside Idle. -/
theorem transitionTable : Obligations.TransitionTable := by
  intro i s
  refine ⟨s.after i, exec_eq i s, ?_⟩
  cases i with
  | rst => rfl
  | nop => rfl
  | getstate => rfl
  | getdata m => exact getData_sequencing s m
  | wdt => exact watchdogTick_sequencing s
  | tick =>
    rw [State.after, tickElapsed_eq]
    exact tickTimeout_sequencing _
  | fall =>
    by_cases idle : s.state = .idle
    · simp only [and_iff_right idle]
      exact fallEdge_sequencing_idle idle
    · simp only [idle, false_and, if_false]
      exact fallEdge_sequencing_of_not_idle idle
  | rise =>
    by_cases idle : s.state = .idle
    · simp only [and_iff_right idle]
      exact riseEdge_sequencing_idle idle
    · simp only [idle, false_and, if_false]
      exact riseEdge_sequencing_of_not_idle idle

end Sys2Proof.Machine
end

section
/-! TICK and the timeout engine (43_tick_timeout.md rules R85, R86, R87): the whole next state of a TICK, a block with
nothing armed, and the silence that ends a frame. -/

namespace Sys2Proof.Machine

variable {s : State}

/-! ### One TICK (rules R85, R86) -/

/-- The timeout's half of TICK, case by case. -/
theorem tickTimeout_eq (s : State) :
    s.tickTimeout =
      if s.tmoArmed = false then s
      else if 1 < s.tmoCnt then { s with tmoCnt := s.tmoCnt - 1 }
      else if s.state = .receiving then { s with state := .received, tmoCnt := 0, tmoArmed := false }.clearTs
      else { s with tmoCnt := 0, tmoArmed := false } := by
  split_ifs with disarmed pending receiving
  · exact tickTimeout_disarmed disarmed
  · exact tickTimeout_counts (Bool.eq_true_of_not_eq_false disarmed) pending
  · rw [tickTimeout_fires (Bool.eq_true_of_not_eq_false disarmed) (Nat.not_lt.1 pending)]
    exact tmoFire_of_receiving receiving
  · rw [tickTimeout_fires (Bool.eq_true_of_not_eq_false disarmed) (Nat.not_lt.1 pending)]
    exact tmoFire_of_not_receiving receiving

/-- Settles O25: the two halves of TICK, `tickElapsed_eq` and `tickTimeout_eq`. -/
theorem tickCountsAndFires : Obligations.TickCountsAndFires := by
  intro s
  rw [exec_eq, State.after, tickElapsed_eq, tickTimeout_eq]
  rfl

/-! ### Nothing armed (rule R87 (a)) -/

theorem after_tick_disarmed (disarmed : s.tmoArmed = false) : ∃ e, s.after .tick = { s with elapsed := e } := by
  rw [State.after, tickElapsed_eq]
  exact ⟨_, tickTimeout_disarmed disarmed⟩

/-- With nothing armed, TICKs write ELAPSED only. -/
theorem ticks_disarmed (disarmed : s.tmoArmed = false) (n : Nat) :
    ∃ e, (List.replicate n .tick).foldl State.after s = { s with elapsed := e } := by
  induction n with
  | zero => exact ⟨s.elapsed, rfl⟩
  | succ n ih =>
    obtain ⟨e, before⟩ := ih
    rw [List.replicate_succ', List.foldl_append, before]
    exact after_tick_disarmed (s := { s with elapsed := e }) disarmed

/-- Settles O51: `ticks_disarmed`, from any state with nothing armed. -/
theorem leaderWithoutBitsWaits : Obligations.LeaderWithoutBitsWaits := by
  intro s n _ disarmed
  obtain ⟨e, he⟩ := ticks_disarmed disarmed n
  exact ⟨_, execAll_eq _ _, he ▸ rfl⟩

/-! ### The silence that ends a frame (rule R87 (b)) -/

/-- What has been received of a frame: FORMAT, BITCOUNT and BITS. -/
def State.frame (s : State) : ProtocolFormat × Nat × Memory := (s.format, s.bitCount, s.bits)

/-- The frame ends at the `n`-th TICK from now; at `n = 0` it has ended. -/
def State.endsIn (s : State) : Nat → Prop
  | 0 => s.state = .received ∧ s.tmoArmed = false
  | n + 1 => s.state = .receiving ∧ s.tmoArmed = true ∧ s.tmoCnt = n + 1

/-- The edge that decodes no bit of a frame of format `f` (42_receiving_edges.md rules R76, R77). -/
def isNonDecodingEdge (f : ProtocolFormat) (i : Instr) : Prop :=
  ((f = .nec ∨ f = .aeha) ∧ i = .rise) ∨ (f = .sony ∧ i = .fall)

/-- The operations that neither decode a bit of a frame of format `f` nor end its reception but by the passing of
time. -/
def isQuiet (f : ProtocolFormat) (i : Instr) : Prop :=
  i = .tick ∨ i = .nop ∨ i = .getstate ∨ isNonDecodingEdge f i

variable {n : Nat} {i : Instr}

theorem state_of_endsIn (ends : s.endsIn n) : s.state = if n = 0 then .received else .receiving := by
  cases n with
  | zero => exact ends.1
  | succ n => exact ends.1

theorem armTimeout_endsIn (receiving : s.state = .receiving) (positive : 1 ≤ n) : (s.armTimeout n).endsIn n := by
  cases n with
  | zero => contradiction
  | succ n => exact ⟨receiving, rfl, rfl⟩

/-- A TICK brings the end of the frame one TICK nearer and leaves the frame alone. -/
theorem tick_endsIn (ends : s.endsIn n) : (s.after .tick).frame = s.frame ∧ (s.after .tick).endsIn (n - 1) := by
  match n, ends with
  | 0, ⟨received, disarmed⟩ =>
    obtain ⟨e, he⟩ := after_tick_disarmed disarmed
    exact he ▸ ⟨rfl, received, disarmed⟩
  | 1, ⟨receiving, armed, last⟩ =>
    obtain ⟨e, he⟩ := after_tick_fires armed receiving last
    exact he ▸ ⟨rfl, rfl, rfl⟩
  | n + 2, ⟨receiving, armed, count⟩ =>
    obtain ⟨e, he⟩ := after_tick_counts armed (by omega)
    exact he ▸ ⟨rfl, receiving, armed, congrArg (· - 1) count⟩

/-- Outside Idle the edge that decodes no bit stamps T[d1] or is ignored (rules R76, R77, R80). -/
theorem after_nonDecodingEdge (notIdle : s.state ≠ .idle) (edge : isNonDecodingEdge s.format i) :
    s.after i = s ∨ s.after i = s.stampNow .d1 := by
  cases state : s.state with
  | idle => contradiction
  | received =>
    obtain ⟨-, rfl⟩ | ⟨-, rfl⟩ := edge
    · exact .inl (riseEdge_of_ignoresEdges (.inl state)).1
    · exact .inl (fallEdge_of_ignoresEdges (.inl state)).1
  | receiving =>
    obtain ⟨format, rfl⟩ | ⟨sony, rfl⟩ := edge
    · exact .inr (riseEdge_pulseDistance state format)
    · exact .inr (fallEdge_sony state sony)

/-- A quiet operation that is no TICK writes T[d1] or the result registers at most. -/
theorem after_quiet (notIdle : s.state ≠ .idle) (quiet : isQuiet s.format i) (noTick : i ≠ .tick) :
    s.after i = s ∨ s.after i = s.stampNow .d1 ∨ s.after i = s.setResult false s.state.code := by
  obtain rfl | rfl | rfl | edge := quiet
  · contradiction
  · exact .inl rfl
  · exact .inr (.inr rfl)
  · exact (after_nonDecodingEdge notIdle edge).imp_right .inl

/-- A quiet operation leaves the frame alone, and of all of them only TICK brings its end nearer. -/
theorem quiet_endsIn (ends : s.endsIn n) (quiet : isQuiet s.format i) :
    (s.after i).frame = s.frame ∧ (s.after i).endsIn (n - if i == .tick then 1 else 0) := by
  by_cases tick : i = .tick
  · subst tick
    exact tick_endsIn ends
  · have notIdle : s.state ≠ .idle := by rw [state_of_endsIn ends]; split <;> decide
    rw [if_neg (by simpa using tick), Nat.sub_zero]
    obtain same | stamped | reported := after_quiet notIdle quiet tick
    · rw [same]
      exact ⟨rfl, ends⟩
    · exact stamped ▸ ⟨rfl, by cases n <;> exact ends⟩
    · exact reported ▸ ⟨rfl, by cases n <;> exact ends⟩

/-- Through quiet operations the frame stays, and its end comes nearer by the number of TICKs among them. -/
theorem foldl_quiet_endsIn {ops : List Instr} (ends : s.endsIn n) (quiet : ∀ i ∈ ops, isQuiet s.format i) :
    (ops.foldl State.after s).frame = s.frame ∧ (ops.foldl State.after s).endsIn (n - ops.count .tick) := by
  induction ops generalizing s n with
  | nil => exact ⟨rfl, ends⟩
  | cons i ops ih =>
    obtain ⟨quiet_i, quiet_ops⟩ := List.forall_mem_cons.1 quiet
    obtain ⟨frame, ends_i⟩ := quiet_endsIn ends quiet_i
    have format : (s.after i).format = s.format := congrArg Prod.fst frame
    rw [List.foldl_cons, List.count_cons, Nat.add_comm, ← Nat.sub_sub, ← frame]
    exact ih ends_i (format ▸ quiet_ops)

/-- The bit-decoding edge of the format being received, the edge of the other kind and the timeout that goes with them
(42_receiving_edges.md rules R75 to R78). -/
def State.decodesAt (s : State) (edge other : Instr) (tmo : Nat) : Prop :=
  (s.format = .nec ∧ edge = .fall ∧ other = .rise ∧ tmo = s.cfg.tmoNec) ∨
    (s.format = .aeha ∧ edge = .fall ∧ other = .rise ∧ tmo = s.cfg.tmoAeha) ∨
    (s.format = .sony ∧ edge = .rise ∧ other = .fall ∧ tmo = s.cfg.tmoSony)

section DecodingEdge

variable {edge other : Instr} {tmo : Nat} (decodes : s.decodesAt edge other tmo)
include decodes

theorem isNonDecodingEdge_other : isNonDecodingEdge s.format other := by
  obtain ⟨nec, -, rfl, -⟩ | ⟨aeha, -, rfl, -⟩ | ⟨sony, -, rfl, -⟩ := decodes
  · exact .inl ⟨.inl nec, rfl⟩
  · exact .inl ⟨.inr aeha, rfl⟩
  · exact .inr ⟨sony, rfl⟩

/-- Every timeout is at least 1 (40_primitives.md rule R56). -/
theorem timeout_positive (inv : Inv s) : 1 ≤ tmo := by
  obtain ⟨-, nec_pos, aeha_pos, sony_pos, -⟩ := inv.cfg_wf
  obtain ⟨-, -, -, rfl⟩ | ⟨-, -, -, rfl⟩ | ⟨-, -, -, rfl⟩ := decodes
  · exact nec_pos
  · exact aeha_pos
  · exact sony_pos

/-- A bit-decoding edge arms the timeout of its format and leaves STATE and FORMAT alone (rules R75, R78). -/
theorem decodingEdge_arms (receiving : s.state = .receiving) :
    ∃ s1 : State, s.after edge = s1.armTimeout tmo ∧ s1.sequencing = s.sequencing := by
  have untouched (m : BitClass) := (appendBit_sequencing (s.stampNow .d2) m).trans (stampNow_sequencing s .d2)
  obtain ⟨nec, rfl, -, rfl⟩ | ⟨aeha, rfl, -, rfl⟩ | ⟨sony, rfl, -, rfl⟩ := decodes
  · exact ⟨_, fallEdge_pulseDistance receiving (.inl ⟨nec, rfl, rfl⟩), untouched _⟩
  · exact ⟨_, fallEdge_pulseDistance receiving (.inr ⟨aeha, rfl, rfl⟩), untouched _⟩
  · exact ⟨_, riseEdge_sony receiving sony, untouched _⟩

end DecodingEdge

/-- Settles O52: the decoding edge puts the end of the frame TMO TICKs away (`decodingEdge_arms`), and
`foldl_quiet_endsIn` follows it through the operations. -/
theorem frameCompletesAfterSilence : Obligations.FrameCompletesAfterSilence := by
  intro s t edge other tmo ops inv receiving (decodes : s.decodesAt edge other tmo) decoded quiet
  obtain rfl := after_eq_of_exec decoded
  obtain ⟨s1, armed, sequencing⟩ := decodingEdge_arms decodes receiving
  obtain ⟨state, format⟩ := Prod.mk.inj sequencing
  have quiet_ops : ∀ i ∈ ops, isQuiet (s1.armTimeout tmo).format i := by
    intro i hi
    rw [armTimeout_format, format]
    obtain tick | nop | getstate | rfl := quiet i hi
    · exact .inl tick
    · exact .inr (.inl nop)
    · exact .inr (.inr (.inl getstate))
    · exact .inr (.inr (.inr (isNonDecodingEdge_other decodes)))
  obtain ⟨frame, ends⟩ :=
    foldl_quiet_endsIn (armTimeout_endsIn (state.trans receiving) (timeout_positive decodes inv)) quiet_ops
  obtain ⟨format_kept, content⟩ := Prod.mk.inj frame
  obtain ⟨count_kept, bits_kept⟩ := Prod.mk.inj content
  rw [armed]
  refine ⟨_, execAll_eq _ _, ?_, format_kept.trans format, count_kept, bits_kept⟩
  simp only [state_of_endsIn ends, Nat.sub_eq_zero_iff_le, ← Nat.not_lt, ite_not]

end Sys2Proof.Machine
end

section
/-! The reception of a pulse-distance frame (42_receiving_edges.md rules R75, R76, R81; 43_tick_timeout.md rule R87):
TICKs before a firing measure time, a mark and a space decode to one bit, and a list of them to the frame they send. -/

namespace Sys2Proof.Machine

variable {s : State}

/-! ### Time that passes without a firing -/

/-- The state after `n` TICKs that neither saturate ELAPSED nor fire the timeout. -/
def State.wait (s : State) (n : Nat) : State :=
  { s with elapsed := s.elapsed + n, tmoCnt := if s.tmoArmed = true then s.tmoCnt - n else s.tmoCnt }

theorem wait_zero (s : State) : s.wait 0 = s := by
  simp [State.wait]

theorem wait_wait (s : State) (m n : Nat) : (s.wait m).wait n = s.wait (m + n) := by
  unfold State.wait
  split <;> simp [Nat.sub_sub, Nat.add_assoc, *]

/-- A firing more than `m + n` TICKs away is more than `n` away after `m` of them. -/
theorem lt_tmoCnt_wait {m n : Nat} (armed : s.tmoArmed = true) (early : m + n < s.tmoCnt) : n < (s.wait m).tmoCnt := by
  rw [State.wait, if_pos armed]
  exact Nat.lt_sub_of_add_lt (Nat.add_comm m n ▸ early)

theorem after_tick_eq_wait (running : s.run = true) (room : s.elapsed + 1 ≤ s.cfg.elapsedMax)
    (early : s.tmoArmed = true → 1 < s.tmoCnt) : s.after .tick = s.wait 1 := by
  rw [State.after, tickElapsed_eq, if_pos ⟨running, room⟩, State.wait]
  by_cases armed : s.tmoArmed = true
  · rw [if_pos armed]
    exact tickTimeout_counts (s := { s with elapsed := s.elapsed + 1 }) armed (early armed)
  · rw [if_neg armed]
    exact tickTimeout_disarmed (s := { s with elapsed := s.elapsed + 1 }) (Bool.eq_false_of_not_eq_true armed)

/-- Fewer TICKs than are pending, if any are, and no more than ELAPSED has room for, only measure time (rule R85). -/
theorem ticks_eq_wait {n : Nat} (running : s.run = true) (room : s.elapsed + n ≤ s.cfg.elapsedMax)
    (early : s.tmoArmed = true → n < s.tmoCnt) : (List.replicate n .tick).foldl State.after s = s.wait n := by
  induction n with
  | zero => exact (wait_zero s).symm
  | succ n ih =>
    have before := ih (by omega) fun armed => Nat.lt_of_succ_lt (early armed)
    rw [List.replicate_succ', List.foldl_append, before, ← wait_wait]
    exact after_tick_eq_wait running room fun armed => lt_tmoCnt_wait armed (early armed)

/-! ### One bit -/

/-- A data bit on the line: its mark and its space in microseconds, and its value. -/
abbrev SentBit := Nat × Nat × Bool

/-- The operations of a data bit: the mark's TICKs, RISE, the space's TICKs, FALL (30_encoding.md rule R48, RF). -/
def SentBit.ops (x : SentBit) : List Instr :=
  List.replicate x.1 Instr.tick ++ [Instr.rise] ++ List.replicate x.2.1 Instr.tick ++ [Instr.fall]

def SentBit.duration (x : SentBit) : Nat := x.1 + x.2.1

/-- The bit is over before the timeout `tmo`, and its space is classified as its value (rule R75). -/
def SentBit.clear (c : Config) (tu tmo : Nat) (x : SentBit) : Prop :=
  x.duration < tmo ∧ classifySpace c tu (some x.2.1) = if x.2.2 = true then .one else .zero

/-- FORMAT is the pulse-distance format of unit-width `tu` and timeout `tmo` (rule R75). -/
def State.pulseDistance (s : State) (tu tmo : Nat) : Prop :=
  (s.format = .nec ∧ tu = s.cfg.tuNec ∧ tmo = s.cfg.tmoNec) ∨
    (s.format = .aeha ∧ tu = s.cfg.tuAeha ∧ tmo = s.cfg.tmoAeha)

/-- The block receives a pulse-distance frame of unit-width `tu` and timeout `tmo`, and no firing is near: nothing is
armed, or the whole timeout is pending. -/
structure State.Receives (s : State) (tu tmo : Nat) : Prop where
  receiving : s.state = .receiving
  format : s.pulseDistance tu tmo
  running : s.run = true
  pending : s.tmoArmed = true → tmo ≤ s.tmoCnt

/-- The frame bits received so far, in order of arrival. -/
def State.receivedBits (s : State) : List Bool := (List.range s.bitCount).map s.bits.bit

variable {tu tmo : Nat}

theorem length_receivedBits (s : State) : s.receivedBits.length = s.bitCount := by
  simp [State.receivedBits]

/-- Frame bit `i` is the `i`-th bit received. -/
theorem bit_of_receivedBits {bs : List Bool} (h : s.receivedBits = bs) {i : Nat} (hi : i < bs.length) :
    s.bits.bit i = bs[i] := by
  subst h
  simp [State.receivedBits]

/-- AppendBit of a classified interval adds its bit at the end of the frame (40_primitives.md rule R58). -/
theorem receivedBits_appendBit (room : s.bitCount < s.cfg.capBits) (b : Bool) :
    (s.appendBit (if b = true then .one else .zero)).receivedBits = s.receivedBits ++ [b] := by
  unfold State.receivedBits
  rw [appendBit_bitCount, if_pos room, List.range_succ, List.map_append, List.map_singleton]
  congr 1
  · refine List.map_congr_left fun i hi => ?_
    rw [appendBit_bit, if_neg fun ⟨_, same⟩ => (List.mem_range.1 hi).ne same]
  · rw [appendBit_bit, if_pos ⟨room, rfl⟩]
    cases b <;> rfl

/-- The state before the FALL that ends a data bit: the bit's time has passed, and T[d1] stands at the end of its
mark. -/
def State.beforeFall (s : State) (x : SentBit) : State :=
  { s.wait x.duration with d1 := some (s.elapsed + x.1) }

theorem wait_stampNow_wait (s : State) (x : SentBit) : ((s.wait x.1).stampNow .d1).wait x.2.1 = s.beforeFall x := by
  rw [State.beforeFall, SentBit.duration, ← wait_wait]
  rfl

/-- FALL measures the space: ELAPSED less T[d1]. -/
theorem beforeFall_interval (s : State) (x : SentBit) :
    (s.beforeFall x).d1.map (fun t => (s.beforeFall x).elapsed - t) = some x.2.1 := by
  rw [State.beforeFall, Option.map_some, SentBit.duration]
  exact congrArg some (by simp only [State.wait]; omega)

/-- Up to its FALL, a data bit in a frame being received is time and the stamp T[d1]. -/
theorem foldl_beforeFall {x : SentBit} (h : s.Receives tu tmo) (early : x.duration < tmo)
    (room : s.elapsed + x.duration ≤ s.cfg.elapsedMax) : x.ops.foldl State.after s = (s.beforeFall x).fallEdge := by
  obtain ⟨receiving, format, running, pending⟩ := h
  unfold SentBit.duration at early room
  have mark : (List.replicate x.1 .tick).foldl State.after s = s.wait x.1 :=
    ticks_eq_wait running (by omega) fun armed =>
      (Nat.le_add_right x.1 x.2.1).trans_lt (early.trans_le (pending armed))
  have rise : (s.wait x.1).after .rise = (s.wait x.1).stampNow .d1 :=
    riseEdge_pulseDistance receiving (Or.imp And.left And.left format)
  have space : (List.replicate x.2.1 .tick).foldl State.after ((s.wait x.1).stampNow .d1) = s.beforeFall x := by
    rw [← wait_stampNow_wait]
    exact ticks_eq_wait running (show s.elapsed + x.1 + x.2.1 ≤ s.cfg.elapsedMax by omega) fun armed =>
      lt_tmoCnt_wait armed (early.trans_le (pending armed))
  rw [SentBit.ops, List.foldl_append, List.foldl_append, List.foldl_append, mark]
  simp only [List.foldl_cons, List.foldl_nil, rise, space]
  rfl

/-- The FALL of a frame being received, its interval classified as the bit `b`: the bit is added to the frame and the
whole timeout is pending (rule R75). -/
theorem fallEdge_receives {b : Bool} (receiving : s.state = .receiving) (format : s.pulseDistance tu tmo)
    (running : s.run = true) (capacity : s.bitCount < s.cfg.capBits)
    (class_eq : classifySpace s.cfg tu (s.d1.map fun t => s.elapsed - t) = if b = true then .one else .zero) :
    s.fallEdge.Receives tu tmo ∧ s.fallEdge.format = s.format ∧ s.fallEdge.elapsed = s.elapsed ∧
      s.fallEdge.receivedBits = s.receivedBits ++ [b] := by
  have appended := receivedBits_appendBit (s := s.stampNow .d2) capacity b
  rw [fallEdge_pulseDistance receiving format, class_eq, appendBit_frame]
  rw [appendBit_frame] at appended
  exact ⟨⟨receiving, format, running, fun _ => Nat.le_refl tmo⟩, rfl, rfl, appended⟩

/-- A clear data bit is received: it is added to the frame, and the whole timeout is pending again. -/
theorem receives_sentBit {x : SentBit} (h : s.Receives tu tmo) (clear : x.clear s.cfg tu tmo)
    (capacity : s.bitCount < s.cfg.capBits) (room : s.elapsed + x.duration ≤ s.cfg.elapsedMax) :
    let t := x.ops.foldl State.after s
    t.Receives tu tmo ∧ t.format = s.format ∧ t.elapsed = s.elapsed + x.duration ∧
      t.receivedBits = s.receivedBits ++ [x.2.2] := by
  obtain ⟨early, class_eq⟩ := clear
  rw [foldl_beforeFall h early room]
  rw [← beforeFall_interval s x] at class_eq
  exact fallEdge_receives (s := s.beforeFall x) h.receiving h.format h.running capacity class_eq

/-! ### A frame -/

/-- A list of clear data bits that fits is received bit by bit. -/
theorem receives_sentBits {sent : List SentBit} (h : s.Receives tu tmo) (clear : ∀ x ∈ sent, x.clear s.cfg tu tmo)
    (capacity : s.bitCount + sent.length ≤ s.cfg.capBits)
    (room : s.elapsed + (sent.map SentBit.duration).sum ≤ s.cfg.elapsedMax) :
    let t := (sent.flatMap SentBit.ops).foldl State.after s
    t.Receives tu tmo ∧ t.format = s.format ∧ t.receivedBits = s.receivedBits ++ sent.map fun x => x.2.2 := by
  induction sent generalizing s with
  | nil => exact ⟨h, rfl, (List.append_nil _).symm⟩
  | cons x sent ih =>
    obtain ⟨clear_x, clear_sent⟩ := List.forall_mem_cons.1 clear
    rw [List.length_cons] at capacity
    rw [List.map_cons, List.sum_cons] at room
    obtain ⟨receives_x, format_x, elapsed_x, bits_x⟩ := receives_sentBit h clear_x (by omega) (by omega)
    have cfg_x : (x.ops.foldl State.after s).cfg = s.cfg := foldl_after_cfg s x.ops
    have count_x : (x.ops.foldl State.after s).bitCount = s.bitCount + 1 := by
      rw [← length_receivedBits, bits_x, List.length_append, length_receivedBits, List.length_singleton]
    obtain ⟨receives_t, format_t, bits_t⟩ := ih receives_x (cfg_x ▸ clear_sent) (by rw [cfg_x, count_x]; omega)
      (by rw [cfg_x, elapsed_x]; omega)
    rw [List.flatMap_cons, List.foldl_append]
    exact ⟨receives_t, format_t.trans format_x, by rw [bits_t, bits_x, List.append_assoc]; rfl⟩

/-! ### The default bands -/

/-- The two bands of a space at the default parameters, in tenths of a microsecond (40_primitives.md rule R51). -/
theorem classifySpace_default (tu x : Nat) :
    classifySpace Config.default tu (some x) =
      if 21 * tu < 10 * x ∧ 10 * x < 39 * tu then .one
      else if 7 * tu < 10 * x ∧ 10 * x < 13 * tu then .zero
      else .noMatch := by
  have one : inRange Config.default (some x) (Config.default.nBit1 tu) = true ↔
      21 * tu < 10 * x ∧ 10 * x < 39 * tu := by
    simp only [inRange_some, Config.default, Config.nBit1]
    omega
  have zero : inRange Config.default (some x) (Config.default.nBit0 tu) = true ↔
      7 * tu < 10 * x ∧ 10 * x < 13 * tu := by
    simp only [inRange_some, Config.default, Config.nBit0]
    omega
  simp only [classifySpace, classifyBit, one, zero]

/-- A space in a band `[lo0, hi0]` or `[lo1, hi1]` that lies in the open band of its bit is classified as that bit: the
open bands do not meet. -/
theorem clear_of_bands {tu lo0 hi0 lo1 hi1 : Nat} {x : SentBit} (zero : 7 * tu < 10 * lo0 ∧ 10 * hi0 < 13 * tu)
    (one : 21 * tu < 10 * lo1 ∧ 10 * hi1 < 39 * tu) (early : x.duration < tmo)
    (band : if x.2.2 = true then lo1 ≤ x.2.1 ∧ x.2.1 ≤ hi1 else lo0 ≤ x.2.1 ∧ x.2.1 ≤ hi0) :
    x.clear Config.default tu tmo := by
  refine ⟨early, (classifySpace_default tu x.2.1).trans ?_⟩
  by_cases value : x.2.2 = true
  · rw [if_pos value] at band ⊢
    exact if_pos (by omega)
  · rw [if_neg value] at band ⊢
    exact (if_neg (by omega)).trans (if_pos (by omega))

/-- The microsecond bands of rule R52 and the timeout of rule R4 are those of one unit-width. -/
theorem exists_unitWidth {lo0 hi0 lo1 hi1 : Nat} (default : s.cfg = Config.default)
    (format : (s.format = .nec ∧ (lo0, hi0, lo1, hi1, tmo) = (394, 730, 1181, 2191, 2810)) ∨
      (s.format = .aeha ∧ (lo0, hi0, lo1, hi1, tmo) = (298, 552, 893, 1657, 2125))) :
    ∃ tu, s.pulseDistance tu tmo ∧ (7 * tu < 10 * lo0 ∧ 10 * hi0 < 13 * tu) ∧
      21 * tu < 10 * lo1 ∧ 10 * hi1 < 39 * tu := by
  unfold State.pulseDistance
  rw [default]
  obtain ⟨nec, bands⟩ | ⟨aeha, bands⟩ := format
  · cases bands
    exact ⟨562, .inl ⟨nec, rfl, rfl⟩, by decide⟩
  · cases bands
    exact ⟨425, .inr ⟨aeha, rfl, rfl⟩, by decide⟩

/-- The clock runs in Receiving (10_state.md rule R23 (e)). -/
theorem Inv.run_of_receiving (inv : Inv s) (receiving : s.state = .receiving) : s.run = true := by
  by_contra stopped
  obtain ⟨-, idle, -⟩ := inv.stopped (Bool.eq_false_of_not_eq_true stopped)
  exact absurd (receiving.symm.trans idle) (by decide)

/-- Settles O54: `receives_sentBits` at the default parameters, from an empty frame. -/
theorem pulseDistanceFrameIsReceived : Obligations.PulseDistanceFrameIsReceived := by
  intro s sent lo0 hi0 lo1 hi1 tmo inv default receiving empty disarmed format fits sentInBand room
  obtain ⟨tu, kind, zero, one⟩ := exists_unitWidth default format
  have receives : s.Receives tu tmo :=
    ⟨receiving, kind, inv.run_of_receiving receiving, fun armed => absurd (disarmed.symm.trans armed) (by decide)⟩
  have clear (x : SentBit) (hx : x ∈ sent) : x.clear s.cfg tu tmo := by
    obtain ⟨early, band⟩ := sentInBand x hx
    exact default ▸ clear_of_bands zero one early band
  have capacity : s.bitCount + sent.length ≤ s.cfg.capBits := by
    rw [empty, default, Nat.zero_add]
    exact fits
  have unsaturated : s.elapsed + (sent.map SentBit.duration).sum ≤ s.cfg.elapsedMax := by
    rw [default]
    exact Nat.le_pred_of_lt room
  obtain ⟨still, format_kept, bits⟩ := receives_sentBits receives clear capacity unsaturated
  have noneYet : s.receivedBits = [] := by rw [State.receivedBits, empty]; rfl
  rw [noneYet, List.nil_append] at bits
  refine ⟨_, execAll_eq _ _, still.receiving, format_kept, ?_, fun i hi => ?_⟩
  · exact (length_receivedBits _).symm.trans ((congrArg List.length bits).trans (List.length_map _))
  · exact (bit_of_receivedBits bits (by simpa using hi)).trans (List.getElem_map _)

end Sys2Proof.Machine
end

section
/-! The watchdog (44_watchdog.md rules R90, R91): WDT's three outcomes, and the bound its count puts on a stay away
from rest. -/

namespace Sys2Proof.Machine

variable {s : State}

/-! ### WDT, case by case -/

theorem watchdogTick_counts (busy : s.busy = true) (within : s.wdCnt + 1 ≤ s.cfg.wdThreshold) :
    s.watchdogTick = { s with wdCnt := s.wdCnt + 1 } := by
  rw [State.watchdogTick, if_pos busy, if_neg (Nat.not_lt.2 within)]

theorem watchdogTick_trips (busy : s.busy = true) (exceeds : s.cfg.wdThreshold < s.wdCnt + 1) :
    s.watchdogTick = { s.fullReset with wdCnt := 0 } := by
  rw [State.watchdogTick, if_pos busy, if_pos exceeds]

theorem watchdogTick_rests (rest : ¬s.busy = true) : s.watchdogTick = { s with wdCnt := 0 } := if_neg rest

theorem wdExceeds_iff : s.wdExceeds = true ↔ s.busy = true ∧ s.cfg.wdThreshold < s.wdCnt + 1 := by
  rw [State.wdExceeds, Bool.and_eq_true, decide_eq_true_iff]

theorem signals_wdt_exceeding (exceeds : s.wdExceeds = true) : signals .wdt s = [.stuckState] := if_pos exceeds

theorem signals_wdt_within (within : ¬s.wdExceeds = true) : signals .wdt s = [] := if_neg within

theorem busy_iff_not_atRest : s.busy = true ↔ ¬s.atRest := (busy_iff_not_rest s).trans not_and_or.symm

/-- Settles O26: one `watchdogTick` lemma per case, and StuckState where `wdExceeds_iff` says. -/
theorem watchdogCountsAndForcesReset : Obligations.WatchdogCountsAndForcesReset := by
  refine fun s => ⟨fun active => ?_, fun idle unset => ?_⟩
  · have busy := (busy_iff_not_rest s).2 active
    refine ⟨fun within => ?_, fun exceeds => ?_⟩
    · have silent : ¬s.wdExceeds = true := fun exceeds => absurd (wdExceeds_iff.1 exceeds).2 (Nat.not_lt.2 within)
      rw [exec_eq, State.after, watchdogTick_counts busy within]
      exact ⟨rfl, signals_wdt_within silent⟩
    · rw [exec_eq, State.after, watchdogTick_trips busy exceeds]
      exact ⟨rfl, signals_wdt_exceeding (wdExceeds_iff.2 ⟨busy, exceeds⟩)⟩
  · have rest : ¬s.busy = true := fun busy => busy_iff_not_atRest.1 busy ⟨idle, unset⟩
    rw [exec_eq, State.after, watchdogTick_rests rest]
    exact ⟨rfl, signals_wdt_within fun exceeds => rest (wdExceeds_iff.1 exceeds).1⟩

/-! ### The bound on a stay away from rest -/

/-- An operation on a block away from rest brings it to rest, or WDCNT counts the operation if it is a WDT and stays
within WD_THRESHOLD. -/
theorem after_atRest_or_counts (i : Instr) (away : ¬s.atRest) (within : s.wdCnt ≤ s.cfg.wdThreshold) :
    (s.after i).atRest ∨
      (s.after i).wdCnt = s.wdCnt + [i].count .wdt ∧ (s.after i).wdCnt ≤ (s.after i).cfg.wdThreshold := by
  by_cases rst : i = .rst
  · subst rst
    exact .inl ⟨rfl, fullReset_stampsUnset s⟩
  by_cases wdt : i = .wdt
  · subst wdt
    have busy := busy_iff_not_atRest.2 away
    obtain fits | exceeds := Nat.lt_or_ge s.wdCnt s.cfg.wdThreshold
    · rw [State.after, watchdogTick_counts busy fits]
      exact .inr ⟨rfl, fits⟩
    · rw [State.after, watchdogTick_trips busy (Nat.lt_succ_of_le exceeds)]
      exact .inl ⟨rfl, fullReset_stampsUnset s⟩
  · rw [after_cfg, after_wdCnt s wdt rst, List.count_singleton, if_neg (beq_iff_eq.not.2 wdt)]
    exact .inr ⟨rfl, within⟩

/-- Enough WDTs to take WDCNT past WD_THRESHOLD bring the block to rest somewhere among the operations. -/
theorem exists_take_atRest {ops : List Instr} (within : s.wdCnt ≤ s.cfg.wdThreshold)
    (enough : s.cfg.wdThreshold < s.wdCnt + ops.count .wdt) :
    ∃ k ≤ ops.length, ((ops.take k).foldl State.after s).atRest := by
  induction ops generalizing s with
  | nil => exact absurd enough (Nat.not_lt.2 within)
  | cons i ops ih =>
    by_cases rest : s.atRest
    · exact ⟨0, Nat.zero_le _, rest⟩
    obtain arrived | ⟨counted, within_i⟩ := after_atRest_or_counts i rest within
    · exact ⟨1, Nat.le_add_left 1 ops.length, arrived⟩
    · have enough_i : (s.after i).cfg.wdThreshold < (s.after i).wdCnt + ops.count .wdt := by
        rw [after_cfg, counted, Nat.add_assoc, ← List.count_append]
        exact enough
      obtain ⟨k, hk, later⟩ := ih within_i enough_i
      exact ⟨k + 1, Nat.succ_le_succ hk, later⟩

/-- Settles O53: the invariant bounds WDCNT (10_state.md rule R17), and `exists_take_atRest` counts on from there. -/
theorem watchdogBringsTheBlockToRest : Obligations.WatchdogBringsTheBlockToRest := by
  intro s ops inv enough
  obtain ⟨k, hk, rest⟩ := exists_take_atRest inv.wdCnt_le (Nat.lt_add_left s.wdCnt enough)
  exact ⟨k, hk, _, execAll_eq _ _, rest⟩

end Sys2Proof.Machine
end

section
/-! The host operations (45_host_api.md rules R95, R96, R97): GETSTATE, and GETDATA's two outcomes with what each leaves
for the next GETDATA. -/

namespace Sys2Proof.Machine

variable {s : State} {m : BitVec 16}

/-- Settles O36: GETSTATE writes the number of STATE, which 30_encoding.md rule R45 gives. -/
theorem getstateReportsTheState : Obligations.GetstateReportsTheState := fun s => exec_eq .getstate s

/-! ### GETDATA (rule R96) -/

theorem signals_getdata_of_lt (tooLong : m.toNat < s.bitCount) : signals (.getdata m) s = [.capacityError] :=
  if_pos tooLong

theorem signals_getdata_of_le (fits : s.bitCount ≤ m.toNat) : signals (.getdata m) s = [] :=
  if_neg (Nat.not_lt.2 fits)

/-- Byte `j` is among the bytes that hold `n` frame bits when its first bit is one of them. -/
theorem lt_bytesFor_iff (j n : Nat) : j < bytesFor n ↔ 8 * j < n := by
  simp only [bytesFor]
  omega

/-- What OUTBUF holds after a copy of the bytes of `n` frame bits. -/
theorem read_copy_bytesFor (src dst : Memory) (n j : Nat) :
    (Memory.copy src dst (bytesFor n)).read j = if 8 * j < n then src.read j else dst.read j := by
  simp only [Memory.read_copy, lt_bytesFor_iff]

/-- Settles O37: one `getData` lemma per outcome, and `read_copy_bytesFor` for OUTBUF. -/
theorem getdataCopiesAndConsumes : Obligations.GetdataCopiesAndConsumes := by
  refine fun s m => ⟨fun tooLong => ⟨?_, signals_getdata_of_lt tooLong⟩, fun fits =>
    ⟨signals_getdata_of_le fits, _, exec_eq _ s, ?_⟩⟩
  · rw [exec_eq, State.after, getData_of_lt tooLong]
    rfl
  · rw [State.after, getData_of_le fits]
    refine ⟨rfl, fun j held => ?_, fun j beyond => ?_⟩
    · exact (read_copy_bytesFor s.bits s.outBuf s.bitCount j).trans (if_pos held)
    · exact (read_copy_bytesFor s.bits s.outBuf s.bitCount j).trans (if_neg (Nat.not_lt.2 beyond))

/-! ### The next GETDATA (rule R97) -/

/-- GETDATA does not read the result registers, and writes them in either outcome. -/
theorem getData_setResult (s : State) (m : BitVec 16) (e : Bool) (v : Nat) :
    (s.setResult e v).getData m = s.getData m := by
  obtain tooLong | fits := Nat.lt_or_ge m.toNat s.bitCount
  · rw [getData_of_lt tooLong, getData_of_lt (s := s.setResult e v) tooLong]
    rfl
  · rw [getData_of_le fits, getData_of_le (s := s.setResult e v) fits]
    rfl

/-- The frame of a block after FullReset is empty, and no byte of it is copied. -/
theorem copyFrame_fullReset (s : State) :
    s.fullReset.copyFrame = { s.fullReset with outFmt := .unknown, outCnt := 0 } := by
  simp only [State.copyFrame, fullReset_format, fullReset_bitCount]
  rfl

/-- After FullReset there is room for the frame whatever MAXBITS is, and GETDATA delivers an empty one. -/
theorem getData_fullReset (s : State) (m : BitVec 16) :
    s.fullReset.getData m = { s.fullReset with outFmt := .unknown, outCnt := 0, retErr := false, retVal := 0 } := by
  have fits : s.fullReset.bitCount ≤ m.toNat := Nat.zero_le _
  rw [getData_of_le fits, copyFrame_fullReset]
  rfl

theorem getData_retErr : (s.getData m).retErr = true ↔ m.toNat < s.bitCount := by
  obtain tooLong | fits := Nat.lt_or_ge m.toNat s.bitCount
  · simp [getData_of_lt tooLong, tooLong]
  · simp [getData_of_le fits, fits]

/-- Only a block that is receiving or has received holds a bit (10_state.md rule R22 (c)). -/
theorem Inv.state_of_bit (inv : Inv s) (bit : 0 < s.bitCount) : s.state = .receiving ∨ s.state = .received := by
  cases state : s.state with
  | idle =>
    obtain ⟨-, empty, -⟩ := inv.idle_frame state
    omega
  | receiving => exact .inl rfl
  | received => exact .inr rfl

/-- Only a frame of a data format holds a bit: a repeat frame has none (10_state.md rule R23 (b), (c), (g)). -/
theorem Inv.format_of_bit (inv : Inv s) (bit : 0 < s.bitCount) :
    s.format = .nec ∨ s.format = .aeha ∨ s.format = .sony := by
  obtain receiving | received := inv.state_of_bit bit
  · exact inv.receiving_format receiving
  · have known := inv.received_format received
    have noRepeat : ¬(s.format = .necRepeat ∨ s.format = .aehaRepeat) := fun isRepeat =>
      bit.ne' (inv.repeat_frame isRepeat).2
    cases format : s.format with
    | unknown => exact absurd format known
    | necRepeat => exact absurd (.inl format) noRepeat
    | aehaRepeat => exact absurd (.inr format) noRepeat
    | nec => exact .inl rfl
    | aeha => exact .inr (.inl rfl)
    | sony => exact .inr (.inr rfl)

/-- Settles O38: `getData_fullReset` after a success, `getData_setResult` after a CapacityError, and the invariant for
where one can occur. -/
theorem secondGetdataAndRetry : Obligations.SecondGetdataAndRetry := by
  refine ⟨fun s t m n fits first => ?_, fun s t m n tooLong _ first => ?_, fun s t m inv first failed => ?_⟩
  all_goals obtain rfl := after_eq_of_exec first
  · rw [exec_eq, State.after, State.after, getData_of_le fits, getData_setResult, getData_fullReset]
    rfl
  · simp only [exec_eq, State.after, getData_of_lt tooLong, getData_setResult]
  · have bit : 0 < s.bitCount := Nat.zero_lt_of_lt (getData_retErr.1 failed)
    exact ⟨inv.state_of_bit bit, inv.format_of_bit bit⟩

end Sys2Proof.Machine
end

section
/-! Received freezes the frame (10_state.md section 8, 20_memory.md section 5): no operation but RST, WDT and GETDATA
changes a frame that has ended, and GETDATA delivers every bit of it. -/

namespace Sys2Proof.Machine

variable {s : State}

/-- An operation that cannot take the block out of Received. -/
def keepsReceived (i : Instr) : Prop := i ≠ .rst ∧ i ≠ .wdt ∧ ∀ n, i ≠ .getdata n

/-- Once the frame has ended, edges are ignored (42_receiving_edges.md rule R80), no timeout is armed for a TICK to
fire, and GETSTATE only reports. -/
theorem after_keepsReceived {i : Instr} (ended : s.endsIn 0) (keeps : keepsReceived i) :
    (s.after i).frame = s.frame ∧ (s.after i).endsIn 0 := by
  have ignores : s.ignoresEdges := .inl ended.1
  obtain ⟨noRst, noWdt, noGetdata⟩ := keeps
  cases i with
  | rst => contradiction
  | wdt => contradiction
  | getdata n => exact absurd rfl (noGetdata n)
  | nop => exact ⟨rfl, ended⟩
  | tick => exact tick_endsIn ended
  | getstate => exact ⟨rfl, ended⟩
  | fall =>
    rw [State.after, (fallEdge_of_ignoresEdges ignores).1]
    exact ⟨rfl, ended⟩
  | rise =>
    rw [State.after, (riseEdge_of_ignoresEdges ignores).1]
    exact ⟨rfl, ended⟩

theorem foldl_keepsReceived {ops : List Instr} (ended : s.endsIn 0) (keeps : ∀ i ∈ ops, keepsReceived i) :
    (ops.foldl State.after s).frame = s.frame := by
  induction ops generalizing s with
  | nil => rfl
  | cons i ops ih =>
    obtain ⟨keeps_i, keeps_ops⟩ := List.forall_mem_cons.1 keeps
    obtain ⟨frame, ended_i⟩ := after_keepsReceived ended keeps_i
    exact (ih ended_i keeps_ops).trans frame

/-- A copy of the bytes of `n` frame bits holds those bits. -/
theorem bit_copy_bytesFor (src dst : Memory) {n i : Nat} (held : i < n) :
    (Memory.copy src dst (bytesFor n)).bit i = src.bit i := by
  have byteHeld : 8 * (i / 8) < n := (Nat.mul_div_le i 8).trans_lt held
  rw [Memory.bit, read_copy_bytesFor, if_pos byteHeld, Memory.bit]

/-- Settles O50: in Received nothing is armed (10_state.md rule R23 (c)), so `foldl_keepsReceived` keeps the frame for
the GETDATA that copies it. -/
theorem receivedFreezesTheFrame : Obligations.ReceivedFreezesTheFrame := by
  intro s ops m inv received keeps room
  obtain ⟨-, disarmed⟩ := inv.received_unset received
  have kept : (ops.foldl State.after s).frame = s.frame := foldl_keepsReceived ⟨received, disarmed⟩ keeps
  rw [execAll_append]
  generalize ops.foldl State.after s = u at kept
  obtain ⟨format, content⟩ := Prod.mk.inj kept
  obtain ⟨count, bits⟩ := Prod.mk.inj content
  rw [← count] at room
  refine ⟨_, execAll_eq _ u, ?_⟩
  rw [List.foldl_cons, List.foldl_nil, State.after, getData_of_le room, ← count, ← format, ← bits]
  exact ⟨rfl, rfl, rfl, rfl, rfl, fun i held => bit_copy_bytesFor u.bits u.outBuf held⟩

end Sys2Proof.Machine
end

section
/-! The error kinds (60_exceptions.md rule R100): the operations that signal one, the trigger of each kind both ways,
and the whole next state it comes with. -/

namespace Sys2Proof.Machine

variable {s : State} {i : Instr} {m : BitClass} {k : ErrorKind}

/-! ### The edges that can signal -/

/-- `i` is the bit-decoding edge of the format being received, and `m` is the class of its interval
(42_receiving_edges.md rules R75, R78). -/
def State.decodesBit (s : State) (i : Instr) (m : BitClass) : Prop :=
  let interval := s.d1.map fun t => s.elapsed - t
  s.state = .receiving ∧
    ((i = .fall ∧ s.format = .nec ∧ classifySpace s.cfg s.cfg.tuNec interval = m) ∨
      (i = .fall ∧ s.format = .aeha ∧ classifySpace s.cfg s.cfg.tuAeha interval = m) ∨
      (i = .rise ∧ s.format = .sony ∧ classifySonyMark s.cfg interval = m))

/-- `i` is the second falling edge with no leader matched, or the rising edge that ends a first mark below MIN_LEADER
(41_idle_edges.md rules R68, R69). -/
def State.mismatches (s : State) (i : Instr) : Prop :=
  s.state = .idle ∧ s.c1.isSome ∧
    ((i = .fall ∧ classifyLeader s.cfg (diffOf s.c2 s.c1) (diffOf (some s.elapsed) s.c2) = none) ∨
      (i = .rise ∧ inRange s.cfg (diffOf (some s.elapsed) s.c1) s.cfg.nSonyLeader = false ∧
        isBelow (diffOf (some s.elapsed) s.c1) s.cfg.minLeader = true))

/-- The timeout a bit-decoding edge arms (rules R75, R78). -/
def State.frameTimeout (s : State) : Nat :=
  match s.format with
  | .sony => s.cfg.tmoSony
  | .aeha => s.cfg.tmoAeha
  | _ => s.cfg.tmoNec

theorem exists_decodesBit_iff :
    (∃ m, s.decodesBit i m) ↔
      s.state = .receiving ∧
        ((i = .fall ∧ (s.format = .nec ∨ s.format = .aeha)) ∨ (i = .rise ∧ s.format = .sony)) := by
  simp only [State.decodesBit, exists_and_left, exists_or, exists_eq', and_true, and_or_left, or_assoc]

theorem signals_of_decodesBit (decodes : s.decodesBit i m) : signals i s = appendSignals (s.stampNow .d2) m := by
  obtain ⟨receiving, ⟨rfl, nec, rfl⟩ | ⟨rfl, aeha, rfl⟩ | ⟨rfl, sony, rfl⟩⟩ := decodes
  · exact signals_fall_pulseDistance receiving (.inl ⟨nec, rfl, rfl⟩)
  · exact signals_fall_pulseDistance receiving (.inr ⟨aeha, rfl, rfl⟩)
  · exact signals_rise_sony receiving sony

theorem exec_of_decodesBit (decodes : s.decodesBit i m) :
    exec i s = .next (((s.stampNow .d2).appendBit m).armTimeout s.frameTimeout) := by
  rw [exec_eq]
  obtain ⟨receiving, ⟨rfl, nec, rfl⟩ | ⟨rfl, aeha, rfl⟩ | ⟨rfl, sony, rfl⟩⟩ := decodes
  · rw [State.after, fallEdge_pulseDistance receiving (.inl ⟨nec, rfl, rfl⟩), State.frameTimeout, nec]
  · rw [State.after, fallEdge_pulseDistance receiving (.inr ⟨aeha, rfl, rfl⟩), State.frameTimeout, aeha]
  · rw [State.after, riseEdge_sony receiving sony, State.frameTimeout, sony]

section Mismatch

variable (mismatch : s.mismatches i)
include mismatch

theorem exec_signals_of_mismatches : exec i s = .next s.fullReset ∧ signals i s = [.protocolMismatch] := by
  obtain ⟨idle, set, test⟩ := mismatch
  obtain ⟨t1, stamped⟩ := Option.isSome_iff_exists.1 set
  obtain ⟨rfl, noLeader⟩ | ⟨rfl, noSony, noise⟩ := test
  · exact ⟨(exec_fall_second idle stamped).trans (congrArg _ (fallIdleSecond_mismatch noLeader)),
      signals_fall_of_mismatch idle stamped noLeader⟩
  · obtain ⟨-, below, -⟩ := riseInIdleTriesSonyThenNoise s t1 idle stamped
    rw [stamped] at noSony noise
    exact below (Bool.eq_false_iff.1 noSony) ((isBelow_some _ _).1 noise)

theorem exec_of_mismatches : exec i s = .next s.fullReset := (exec_signals_of_mismatches mismatch).1

theorem signals_of_mismatches : signals i s = [.protocolMismatch] := (exec_signals_of_mismatches mismatch).2

end Mismatch

/-- A falling edge signals nothing, ends a leader that matches none, or decodes a bit. -/
theorem fall_signal_cases (s : State) :
    signals .fall s = [] ∨ s.mismatches .fall ∨ ∃ m, s.decodesBit .fall m := by
  by_cases idle : s.state = .idle
  · cases c1 : s.c1 with
    | none => exact .inl (signals_fall_first idle c1)
    | some t1 =>
      cases leader : (s.stampNow .c3).leaderClass with
      | none => exact .inr (.inl ⟨idle, congrArg Option.isSome c1, .inl ⟨rfl, leader⟩⟩)
      | some f => exact .inl (signals_fall_of_leader idle c1 leader)
  · obtain ⟨receiving, nec | aeha⟩ | ⟨receiving, sony⟩ | ignores := edge_cases_of_not_idle s idle
    · exact .inr (.inr ⟨_, receiving, .inl ⟨rfl, nec, rfl⟩⟩)
    · exact .inr (.inr ⟨_, receiving, .inr (.inl ⟨rfl, aeha, rfl⟩)⟩)
    · exact .inl (by simp only [signals, fallSignals, receiving, sony])
    · exact .inl (fallEdge_of_ignoresEdges ignores).2

/-- A rising edge signals nothing, ends a mark below MIN_LEADER, or decodes a bit. -/
theorem rise_signal_cases (s : State) :
    signals .rise s = [] ∨ s.mismatches .rise ∨ ∃ m, s.decodesBit .rise m := by
  by_cases idle : s.state = .idle
  · cases c1 : s.c1 with
    | none =>
      exact .inl (by simp only [signals, riseSignals, idle, valid_c1_of_unset c1, Bool.false_eq_true, if_false])
    | some t1 =>
      have signal := signals_rise_mark c1 idle
      by_cases sony : inRange s.cfg (some (s.elapsed - t1)) s.cfg.nSonyLeader = true
      · exact .inl (signal.trans (if_pos sony))
      by_cases noise : s.elapsed - t1 < s.cfg.minLeader
      · refine .inr (.inl ⟨idle, congrArg Option.isSome c1, .inr ⟨rfl, ?_⟩⟩)
        rw [c1]
        exact ⟨Bool.eq_false_iff.2 sony, (isBelow_some _ _).2 noise⟩
      · exact .inl (signal.trans ((if_neg sony).trans (if_neg noise)))
  · obtain ⟨receiving, nec | aeha⟩ | ⟨receiving, sony⟩ | ignores := edge_cases_of_not_idle s idle
    · exact .inl (by simp only [signals, riseSignals, receiving, nec])
    · exact .inl (by simp only [signals, riseSignals, receiving, aeha])
    · exact .inr (.inr ⟨_, receiving, .inr (.inr ⟨rfl, sony, rfl⟩)⟩)
    · exact .inl (riseEdge_of_ignoresEdges ignores).2

/-! ### Every signal, and where it comes from -/

/-- An operation signals nothing, or it has one of four reasons to. -/
theorem signal_cases (s : State) (i : Instr) :
    signals i s = [] ∨ (∃ n, i = .getdata n ∧ n.toNat < s.bitCount) ∨ (i = .wdt ∧ s.wdExceeds = true) ∨
      s.mismatches i ∨ ∃ m, s.decodesBit i m := by
  cases i with
  | rst | nop | tick | getstate => exact .inl rfl
  | fall => exact (fall_signal_cases s).imp_right (.inr ∘ .inr)
  | rise => exact (rise_signal_cases s).imp_right (.inr ∘ .inr)
  | wdt =>
    by_cases exceeds : s.wdExceeds = true
    · exact .inr (.inr (.inl ⟨rfl, exceeds⟩))
    · exact .inl (signals_wdt_within exceeds)
  | getdata n =>
    obtain tooLong | fits := Nat.lt_or_ge n.toNat s.bitCount
    · exact .inr (.inl ⟨n, rfl, tooLong⟩)
    · exact .inl (signals_getdata_of_le fits)

theorem mem_appendSignals_iff :
    k ∈ appendSignals s m ↔
      (k = .ambiguousBitTiming ∧ m = .noMatch) ∨ (k = .frameOverflow ∧ s.cfg.capBits ≤ s.bitCount) := by
  simp [appendSignals, and_comm]

/-- An error kind is signalled by a GETDATA without room, by a WDT past the threshold, by an edge in Idle that
mismatches, and by AppendBit at a bit-decoding edge, and nowhere else. -/
theorem mem_signals_iff :
    k ∈ signals i s ↔
      (k = .capacityError ∧ ∃ n, i = .getdata n ∧ n.toNat < s.bitCount) ∨
        (k = .stuckState ∧ i = .wdt ∧ s.wdExceeds = true) ∨
        (k = .protocolMismatch ∧ s.mismatches i) ∨
        ∃ m, s.decodesBit i m ∧ k ∈ appendSignals (s.stampNow .d2) m := by
  refine ⟨fun signalled => ?_, ?_⟩
  · obtain silent | ⟨n, rfl, tooLong⟩ | ⟨rfl, exceeds⟩ | mismatch | ⟨m, decodes⟩ := signal_cases s i
    · exact absurd (silent ▸ signalled) List.not_mem_nil
    · rw [signals_getdata_of_lt tooLong, List.mem_singleton] at signalled
      exact .inl ⟨signalled, n, rfl, tooLong⟩
    · rw [signals_wdt_exceeding exceeds, List.mem_singleton] at signalled
      exact .inr (.inl ⟨signalled, rfl, exceeds⟩)
    · rw [signals_of_mismatches mismatch, List.mem_singleton] at signalled
      exact .inr (.inr (.inl ⟨signalled, mismatch⟩))
    · rw [signals_of_decodesBit decodes] at signalled
      exact .inr (.inr (.inr ⟨m, decodes, signalled⟩))
  · rintro (⟨rfl, n, rfl, tooLong⟩ | ⟨rfl, rfl, exceeds⟩ | ⟨rfl, mismatch⟩ | ⟨m, decodes, signalled⟩)
    · rw [signals_getdata_of_lt tooLong, List.mem_singleton]
    · rw [signals_wdt_exceeding exceeds, List.mem_singleton]
    · rw [signals_of_mismatches mismatch, List.mem_singleton]
    · rwa [signals_of_decodesBit decodes]

/-! ### The trigger of each kind -/

theorem capacityError_mem_signals :
    .capacityError ∈ signals i s ↔ ∃ n, i = .getdata n ∧ n.toNat < s.bitCount := by
  simp [mem_signals_iff, mem_appendSignals_iff]

theorem protocolMismatch_mem_signals : .protocolMismatch ∈ signals i s ↔ s.mismatches i := by
  simp [mem_signals_iff, mem_appendSignals_iff]

theorem stuckState_mem_signals :
    .stuckState ∈ signals i s ↔ i = .wdt ∧ ¬s.atRest ∧ s.cfg.wdThreshold < s.wdCnt + 1 := by
  rw [← busy_iff_not_atRest, ← wdExceeds_iff]
  simp [mem_signals_iff, mem_appendSignals_iff]

theorem ambiguousBitTiming_mem_signals : .ambiguousBitTiming ∈ signals i s ↔ s.decodesBit i .noMatch := by
  simp [mem_signals_iff, mem_appendSignals_iff]

theorem frameOverflow_mem_signals :
    .frameOverflow ∈ signals i s ↔ (∃ m, s.decodesBit i m) ∧ s.cfg.capBits ≤ s.bitCount := by
  simp [mem_signals_iff, mem_appendSignals_iff]

/-- An interval is ambiguous when it lies outside both bands (40_primitives.md rule R58). -/
theorem classifyBit_eq_noMatch_iff (c : Config) (x : Option Nat) (n1 n0 : Nat) :
    classifyBit c x n1 n0 = .noMatch ↔ inRange c x n1 = false ∧ inRange c x n0 = false := by
  simp [classifyBit, ite_eq_iff]

/-! ### What a bit-decoding edge does when it signals -/

/-- An ambiguous interval is counted where there is room, and its bit is not written (40_primitives.md rule R58). -/
theorem appendBit_noMatch (s : State) :
    s.appendBit .noMatch =
      { s with bitCount := if s.bitCount < s.cfg.capBits then s.bitCount + 1 else s.bitCount } := by
  unfold State.appendBit
  split <;> rfl

/-- Settles O45: `mem_signals_iff` gives the triggers, kind by kind, and the equation of the operation that signals
gives the effect. -/
theorem errorKindsAndTheirEffects : Obligations.ErrorKindsAndTheirEffects := by
  refine ⟨⟨rfl, rfl, rfl, rfl, rfl⟩, fun i s => ⟨capacityError_mem_signals, fun signalled => ?capacity,
    protocolMismatch_mem_signals, fun signalled => ?mismatch, stuckState_mem_signals, fun signalled => ?stuck,
    ?ambiguous_trigger, ?overflow_trigger, ⟨fun signalled => ?ambiguous, fun signalled => ?overflow⟩,
    fun _ inv => inv.tail_zero s.bitCount le_rfl⟩⟩
  case capacity =>
    obtain ⟨n, rfl, tooLong⟩ := capacityError_mem_signals.1 signalled
    exact (exec_eq _ s).trans (congrArg _ (getData_of_lt tooLong))
  case mismatch =>
    exact exec_of_mismatches (protocolMismatch_mem_signals.1 signalled)
  case stuck =>
    obtain ⟨rfl, away, exceeds⟩ := stuckState_mem_signals.1 signalled
    exact (exec_eq _ s).trans (congrArg _ (watchdogTick_trips (busy_iff_not_atRest.2 away) exceeds))
  case ambiguous_trigger =>
    simp only [ambiguousBitTiming_mem_signals, State.decodesBit, classifySpace, classifySonyMark,
      classifyBit_eq_noMatch_iff, Config.nBit1, Config.nBit0, Config.nSony1, Config.nSony0]
  case overflow_trigger =>
    rw [frameOverflow_mem_signals, exists_decodesBit_iff, and_right_comm, and_assoc]
  case ambiguous =>
    rw [exec_of_decodesBit (ambiguousBitTiming_mem_signals.1 signalled), appendBit_noMatch]
    rfl
  case overflow =>
    obtain ⟨⟨m, decodes⟩, full⟩ := frameOverflow_mem_signals.1 signalled
    rw [exec_of_decodesBit decodes, appendBit_of_full (s := s.stampNow .d2) m full]
    rfl

end Sys2Proof.Machine
end

section
/-! Decoding and encoding are inverse (30_encoding.md sections 3 and 7): a legal word with RST = 0 is its MAXBITS field
and its six request bits, and the bundles one word can request are exactly those such a pair stands for. -/

namespace Sys2Proof

variable {w : Word} {ops : Bundle} {i : Instr}

/-! ### Words as their fields -/

/-- The word with MAXBITS = `m`, the six request bits `f`, and every other bit 0. -/
def fieldWord (m : BitVec 16) (f : BitVec 6) : Word := m ++ (0#10 ++ f)

/-- The request bits rule R43 allows: not both edges, and HOP other than 3. -/
def legalRequest (f : BitVec 6) : Bool := !(f.getLsbD 1 && f.getLsbD 2) && f.extractLsb' 4 2 != 3

/-- The operations without an operand that the request bits stand for, in the order of rule R42. -/
def plainRequests (f : BitVec 6) : List Instr :=
  (if f.getLsbD 0 then [.tick] else []) ++ (if f.getLsbD 1 then [.fall] else [])
    ++ (if f.getLsbD 2 then [.rise] else []) ++ (if f.getLsbD 3 then [.wdt] else [])
    ++ (if f.extractLsb' 4 2 = 1 then [.getstate] else [])

/-- The operations that the request bits `f` stand for, with GETDATA's operand `m`. -/
def requestsOf (m : BitVec 16) (f : BitVec 6) : List Instr :=
  plainRequests f ++ if f.extractLsb' 4 2 = 2 then [.getdata m] else []

theorem getLsbD_fieldWord (m : BitVec 16) (f : BitVec 6) (k : Nat) :
    (fieldWord m f).getLsbD k = if k < 6 then f.getLsbD k else if k < 16 then false else m.getLsbD (k - 16) := by
  simp only [fieldWord, BitVec.getLsbD_append, BitVec.getLsbD_zero]
  by_cases request : k < 6
  · rw [if_pos (by omega), if_pos request, if_pos request]
  · rw [if_neg request, if_neg request]

theorem requestField_fieldWord (m : BitVec 16) (f : BitVec 6) : (fieldWord m f).requestField = f := by
  refine BitVec.eq_of_getLsbD_eq fun k hk => ?_
  simp only [BitVec.getLsbD_extractLsb', getLsbD_fieldWord, Nat.zero_add, hk, decide_true, Bool.true_and, if_true]

theorem maxBits_fieldWord (m : BitVec 16) (f : BitVec 6) : (fieldWord m f).maxBits = m := by
  refine BitVec.eq_of_getLsbD_eq fun k hk => ?_
  rw [BitVec.getLsbD_extractLsb', getLsbD_fieldWord, if_neg (by omega), if_neg (by omega), decide_eq_true hk,
    Bool.true_and, Nat.add_sub_cancel_left]

theorem rstBit_fieldWord (m : BitVec 16) (f : BitVec 6) : (fieldWord m f).rstBit = false := getLsbD_fieldWord m f 6

theorem zeroField_fieldWord (m : BitVec 16) (f : BitVec 6) : (fieldWord m f).zeroField = 0 := by
  refine BitVec.eq_of_getLsbD_eq fun k hk => ?_
  rw [BitVec.getLsbD_extractLsb', getLsbD_fieldWord, if_neg (by omega), if_pos (by omega), Bool.and_false]
  exact BitVec.getLsbD_zero.symm

/-- With bits 15:6 at 0, a word is its MAXBITS field and its request bits. -/
theorem eq_fieldWord (hrst : w.rstBit = false) (hzero : w.zeroField = 0) : w = fieldWord w.maxBits w.requestField := by
  refine BitVec.eq_of_getLsbD_eq fun k hk => ?_
  rw [getLsbD_fieldWord]
  obtain hlow | hhigh := Nat.lt_or_ge k 16
  · rw [← getLsbD_and_lowHalf w hlow, lowHalf_eq_requestField hrst hzero, BitVec.getLsbD_setWidth]
    split_ifs with hreq
    · simp [hk]
    · exact Bool.and_eq_false_iff.2 (.inr (BitVec.getLsbD_of_ge _ _ (Nat.not_lt.1 hreq)))
  · rw [if_neg (by omega), if_neg (by omega), BitVec.getLsbD_extractLsb', decide_eq_true (by omega), Bool.true_and,
      Nat.add_sub_cancel' hhigh]

theorem fieldWord_or (m n : BitVec 16) (f g : BitVec 6) :
    fieldWord m f ||| fieldWord n g = fieldWord (m ||| n) (f ||| g) := by
  refine BitVec.eq_of_getLsbD_eq fun k hk => ?_
  simp only [BitVec.getLsbD_or, getLsbD_fieldWord]
  split_ifs <;> rfl

/-- The low half of a word of request bits is the word without MAXBITS. -/
theorem fieldWord_and_lowHalf (m : BitVec 16) (f : BitVec 6) : fieldWord m f &&& 0x0000FFFF#32 = fieldWord 0 f := by
  rw [lowHalf_eq_requestField (rstBit_fieldWord m f) (zeroField_fieldWord m f), requestField_fieldWord]
  revert f
  decide

/-! ### Decoding a word given by its fields -/

theorem requests_eq (w : Word) : w.requests = requestsOf w.maxBits w.requestField := by
  have bit (k : Nat) (hk : k < 6) : w.requestField.getLsbD k = w.getLsbD k := by
    rw [BitVec.getLsbD_extractLsb', decide_eq_true hk, Bool.true_and, Nat.zero_add]
  simp (disch := decide) only [requestsOf, plainRequests, bit, ← w.hop_eq_requestField]
  rfl

theorem legalRequest_iff (f : BitVec 6) :
    legalRequest f = true ↔ ¬(f.getLsbD 1 = true ∧ f.getLsbD 2 = true) ∧ f.extractLsb' 4 2 ≠ 3 := by
  simp [legalRequest, imp_iff_not_or]

/-- A word with bits 15:6 at 0 is reserved exactly when its request bits are not legal (rule R43). -/
theorem reserved?_fieldWord (m : BitVec 16) (f : BitVec 6) :
    (fieldWord m f).reserved? = none ↔ legalRequest f = true := by
  have fallBit : (fieldWord m f).fallBit = f.getLsbD 1 := getLsbD_fieldWord m f 1
  have riseBit : (fieldWord m f).riseBit = f.getLsbD 2 := getLsbD_fieldWord m f 2
  rw [Word.reserved?_eq_none_iff, Word.hop_eq_requestField, requestField_fieldWord, fallBit, riseBit,
    legalRequest_iff, and_iff_right (zeroField_fieldWord m f)]

theorem decode_fieldWord (m : BitVec 16) {f : BitVec 6} (legal : legalRequest f = true) :
    decode (fieldWord m f) = .ok (orNop (requestsOf m f)) := by
  rw [decode_of_not_reserved (rstBit_fieldWord m f) ((reserved?_fieldWord m f).2 legal), requests_eq,
    maxBits_fieldWord, requestField_fieldWord]

/-! ### Assembling a bundle -/

theorem encodeBundle_append (ops more : Bundle) :
    encodeBundle (ops ++ more) = encodeBundle ops ||| encodeBundle more := by
  induction ops with
  | nil => exact BitVec.zero_or.symm
  | cons i ops ih =>
    rw [List.cons_append, encodeBundle, List.foldr_cons, ← encodeBundle, ih, ← BitVec.or_assoc]
    rfl

theorem encode_getdata (m : BitVec 16) : encode (.getdata m) = fieldWord m 0x20 := by
  have operand : m.setWidth 32 <<< 16 = fieldWord m 0 := by
    refine BitVec.eq_of_getLsbD_eq fun k hk => ?_
    rw [getLsbD_fieldWord, BitVec.getLsbD_shiftLeft, BitVec.getLsbD_setWidth]
    obtain low | high := Nat.lt_or_ge k 16
    · simp [low]
    · simp [hk, show ¬k < 16 by omega, show ¬k < 6 by omega, show k - 16 < 32 by omega]
  calc encode (.getdata m)
    _ = fieldWord m 0 ||| fieldWord 0 0x20 := congrArg (· ||| 0x20#32) operand
    _ = fieldWord m 0x20 := by rw [fieldWord_or]; exact congrArg (fieldWord · 0x20) BitVec.or_zero

/-- The bundle of a legal request assembles to the word of its request bits, with MAXBITS where GETDATA is among
them. -/
theorem encodeBundle_requestsOf (m : BitVec 16) {f : BitVec 6} (legal : legalRequest f = true) :
    encodeBundle (requestsOf m f) = fieldWord (if f.extractLsb' 4 2 = 2 then m else 0) f := by
  have plain : ∀ f : BitVec 6, legalRequest f = true →
      encodeBundle (plainRequests f) = fieldWord 0 (if f.extractLsb' 4 2 = 2 then f &&& 0x1F else f) := by decide
  have withHop : ∀ f : BitVec 6, f.extractLsb' 4 2 = 2 → f &&& 0x1F ||| 0x20 = f := by decide
  rw [requestsOf, encodeBundle_append, plain f legal]
  split_ifs with hop
  · rw [Machine.encodeBundle_singleton, encode_getdata, fieldWord_or, withHop f hop]
    exact congrArg (fieldWord · f) BitVec.zero_or
  · exact BitVec.or_zero

theorem encodeBundle_orNop (ops : Bundle) : encodeBundle (orNop ops) = encodeBundle ops := by
  cases ops <;> rfl

/-! ### The bundles that one word can request -/

/-- The places of the operations the request bits stand for. -/
def requestPlaces (f : BitVec 6) : List Nat :=
  (plainRequests f).filterMap Instr.place ++ if f.extractLsb' 4 2 = 2 then [3] else []

theorem filterMap_place_requestsOf (m : BitVec 16) (f : BitVec 6) :
    (requestsOf m f).filterMap Instr.place = requestPlaces f := by
  rw [requestsOf, List.filterMap_append, requestPlaces]
  split_ifs <;> rfl

/-- The request bit of an operation that can stand beside others; HOP's two bits are never both set. -/
def Instr.requestBit : Instr → BitVec 6
  | .rst => 0
  | .nop => 0
  | .tick => 0x01
  | .fall => 0x02
  | .rise => 0x04
  | .wdt => 0x08
  | .getstate => 0x10
  | .getdata _ => 0x20

/-- `requestsOf_cons` for an operation without an operand, over the 64 values of the request bits. -/
theorem plainRequests_cons {k : Nat} (placed : i.place = some k) (plain : ∀ n, i ≠ .getdata n) :
    ∀ f : BitVec 6, legalRequest f = true → (∀ p ∈ requestPlaces f, k < p) →
      legalRequest (f ||| i.requestBit) = true ∧ plainRequests (f ||| i.requestBit) = i :: plainRequests f ∧
        ((f ||| i.requestBit).extractLsb' 4 2 = 2 ↔ f.extractLsb' 4 2 = 2) := by
  cases i with
  | rst | nop => cases placed
  | getdata n => exact absurd rfl (plain n)
  | _ => cases placed; decide

/-- Putting an operation before those with later places sets its bit and changes no other request. -/
theorem requestsOf_cons {k : Nat} (m : BitVec 16) {f : BitVec 6} (legal : legalRequest f = true)
    (placed : i.place = some k) (before : ∀ p ∈ requestPlaces f, k < p) :
    ∃ n, legalRequest (f ||| i.requestBit) = true ∧ requestsOf n (f ||| i.requestBit) = i :: requestsOf m f := by
  by_cases plain : ∀ n, i ≠ .getdata n
  · obtain ⟨legal_i, requests, getdata_iff⟩ := plainRequests_cons placed plain f legal before
    refine ⟨m, legal_i, ?_⟩
    simp only [requestsOf, requests, getdata_iff, List.cons_append]
  · push Not at plain
    obtain ⟨n, rfl⟩ := plain
    cases placed
    have last : ∀ f : BitVec 6, legalRequest f = true → (∀ p ∈ requestPlaces f, 3 < p) → f = 0 := by decide
    obtain rfl := last f legal before
    exact ⟨n, by simp [legalRequest, Instr.requestBit], by simp [requestsOf, plainRequests, Instr.requestBit]⟩

/-- A list of operations with a place each, in rising order, is what some request bits stand for. -/
theorem exists_requestsOf (placed : ∀ i ∈ ops, i.place.isSome = true)
    (ordered : (ops.filterMap Instr.place).Pairwise (· < ·)) :
    ∃ m f, legalRequest f = true ∧ ops = requestsOf m f := by
  induction ops with
  | nil => exact ⟨0, 0, rfl, rfl⟩
  | cons i ops ih =>
    obtain ⟨placed_i, placed_ops⟩ := List.forall_mem_cons.1 placed
    obtain ⟨k, hk⟩ := Option.isSome_iff_exists.1 placed_i
    rw [List.filterMap_cons_some hk] at ordered
    obtain ⟨before, ordered_ops⟩ := List.pairwise_cons.1 ordered
    obtain ⟨m, f, legal, rfl⟩ := ih placed_ops ordered_ops
    rw [filterMap_place_requestsOf] at before
    obtain ⟨n, legal_i, cons⟩ := requestsOf_cons m legal hk before
    exact ⟨n, _, legal_i, cons.symm⟩

theorem wf_iff :
    ops.wf = true ↔ ops ≠ [] ∧ (ops.length = 1 ∨ ∀ i ∈ ops, i.place.isSome = true) ∧
      (ops.filterMap Instr.place).Pairwise (· < ·) := by
  simp [Bundle.wf, Bundle.nonempty, Bundle.aloneOk, Bundle.ordered, and_assoc]

theorem orNop_of_ne_nil (h : ops ≠ []) : orNop ops = ops := if_neg (mt List.isEmpty_iff.1 h)

/-- The bundle of a legal request is well formed. -/
theorem wf_orNop_requestsOf (m : BitVec 16) {f : BitVec 6} (legal : legalRequest f = true) :
    (orNop (requestsOf m f)).wf = true := by
  by_cases idle : requestsOf m f = []
  · rw [idle]
    rfl
  · have plain_placed : ∀ f : BitVec 6, ∀ i ∈ plainRequests f, i.place.isSome = true := by decide
    have rising : ∀ f : BitVec 6, legalRequest f = true → (requestPlaces f).Pairwise (· < ·) := by decide
    rw [orNop_of_ne_nil idle, wf_iff, filterMap_place_requestsOf]
    refine ⟨idle, .inr fun i hi => ?_, rising f legal⟩
    obtain hi | hi := List.mem_append.1 hi
    · exact plain_placed f i hi
    · obtain ⟨-, rfl⟩ : f.extractLsb' 4 2 = 2 ∧ i = .getdata m := by simpa using hi
      rfl

/-- A well-formed bundle is RST alone, or the bundle of a legal request. -/
theorem wf_cases (h : ops.wf = true) :
    ops = [.rst] ∨ ∃ m f, legalRequest f = true ∧ ops = orNop (requestsOf m f) := by
  obtain ⟨nonempty, alone, ordered⟩ := wf_iff.1 h
  by_cases placed : ∀ i ∈ ops, i.place.isSome = true
  · obtain ⟨m, f, legal, rfl⟩ := exists_requestsOf placed ordered
    exact .inr ⟨m, f, legal, (orNop_of_ne_nil nonempty).symm⟩
  · obtain ⟨i, rfl⟩ := List.length_eq_one_iff.1 (alone.resolve_right placed)
    cases i with
    | rst => exact .inl rfl
    | nop => exact .inr ⟨0, 0, rfl, rfl⟩
    | _ => exact absurd (by simp [Instr.place]) placed

/-- Settles O1: a well-formed bundle is RST or the bundle of a legal request (`wf_cases`), which assembles to a word of
its fields (`encodeBundle_requestsOf`), which `decode_fieldWord` reads back. -/
theorem decodeOfEncodedBundle : Obligations.DecodeOfEncodedBundle := by
  intro ops wf
  obtain rfl | ⟨m, f, legal, rfl⟩ := wf_cases wf
  · rfl
  · rw [encodeBundle_orNop, encodeBundle_requestsOf m legal, decode_fieldWord _ legal]
    unfold requestsOf
    split_ifs <;> rfl

/-- Settles O2: a legal word with RST = 0 is a word of its fields (`eq_fieldWord`), and its bundle assembles to those of
them the decoder reads. -/
theorem decodedBundleReassembles : Obligations.DecodedBundleReassembles := by
  intro w ops decoded
  obtain ⟨hrst, rfl⟩ | ⟨hrst, hres, rfl⟩ := decode_ok_cases decoded
  · exact ⟨rfl, (if_pos hrst).symm⟩
  · obtain ⟨hzero, -, -⟩ := Word.reserved?_eq_none_iff.1 hres
    have fields := eq_fieldWord hrst hzero
    rw [fields] at hres
    have legal := (reserved?_fieldWord _ _).1 hres
    rw [requests_eq]
    refine ⟨wf_orNop_requestsOf _ legal, ?_⟩
    have word : fieldWord (if w.hop = 2 then w.maxBits else 0) w.requestField =
        if w.hop = 2 then w else w &&& 0x0000FFFF#32 := by
      split_ifs with hop
      · exact fields.symm
      · rw [fields, fieldWord_and_lowHalf, requestField_fieldWord]
    rw [encodeBundle_orNop, encodeBundle_requestsOf _ legal, ← w.hop_eq_requestField, word]
    exact (if_neg (Bool.eq_false_iff.1 hrst)).symm

end Sys2Proof
end

section
/-! The step (30_encoding.md sections 3, 5 and 7; 60_exceptions.md section 1): which operations it runs, when it answers
a next state, and what it takes from the queue of words. -/

namespace Sys2Proof.Machine

/-- Settles O6: each word's bits, read by the decoder. -/
theorem sampleWordsDecode : Obligations.SampleWordsDecode := ⟨rfl, rfl, rfl, rfl, rfl, rfl, rfl, rfl, rfl, rfl, rfl⟩

/-- Settles O10: `step_of_decode_ok` for a bundle of one operation. -/
theorem stepRunsTheDecodedOperation : Obligations.StepRunsTheDecodedOperation := by
  intro s w rest i hw h
  rw [step_of_decode_ok hw h, execAll_eq, exec_eq]
  rfl

/-- An operation alone is a well-formed bundle. -/
theorem wf_singleton (i : Instr) : Bundle.wf [i] = true := by cases i <;> rfl

/-- The decoder reads an operation back from its word. -/
theorem decode_encode (i : Instr) : decode (encode i) = .ok [i] :=
  encodeBundle_singleton i ▸ decodeOfEncodedBundle [i] (wf_singleton i)

theorem tableWord_toNat (w : Word) : tableWord 32 w.toNat = w := by
  rw [tableWord, Nat.mod_eq_of_lt w.isLt, BitVec.ofNat_toNat, BitVec.setWidth_eq]

/-- Settles O11: the step takes the presented word, which `decode_encode` reads back. -/
theorem presentedOperationRunsNext : Obligations.PresentedOperationRunsNext := by
  intro i s
  rw [State.withFetchWord, State.presentTableWord, tableWord_toNat, step_presentWord, decode_encode, exec_eq]
  rfl

/-- Settles O12: the word is 0, which is NOP (30_encoding.md rule R42). -/
theorem idleCycleChangesNothing : Obligations.IdleCycleChangesNothing := by
  intro s empty
  have nop : decode s.nextWord = .ok [.nop] := by rw [State.nextWord, empty]; rfl
  have same : s.dropWord = s := by rw [State.dropWord, empty, List.tail_nil, ← empty]
  rw [step_eq, nop, same]
  rfl

/-- A word's operations, one after another, leave the words not yet sampled. -/
theorem foldl_after_inputs (ops : List Instr) (s : State) : (ops.foldl State.after s).inputs = s.inputs := by
  induction ops generalizing s with
  | nil => rfl
  | cons i ops ih => rw [List.foldl_cons, ih, after_inputs]

/-- Settles O13: an empty queue is the idle cycle, and the word at the head of any other is legal or reserved. -/
theorem stepCompletesUnlessReserved : Obligations.StepCompletesUnlessReserved := by
  refine ⟨fun s => ?_, fun s t h => ?_⟩
  · cases hw : s.inputs with
    | nil => exact .inl ⟨s, idleCycleChangesNothing s hw⟩
    | cons w rest =>
      cases h : decode w with
      | ok ops => exact .inl ⟨_, (step_of_decode_ok hw h).trans (execAll_eq _ _)⟩
      | error why => exact .inr ⟨w, rest, why, rfl, h, step_of_decode_error hw h⟩
  · obtain ⟨ops, -, rfl⟩ := step_next h
    rw [foldl_after_inputs, dropWord_inputs]

end Sys2Proof.Machine
end

section
/-! The pins (30_encoding.md section 6, rule R49). -/

namespace Sys2Proof.Machine

/-- A one-bit pin below the field `x` is bit 0. -/
theorem getLsbD_append_pin_zero {n : Nat} (x : BitVec n) (b : Bool) : (x ++ BitVec.ofBool b).getLsbD 0 = b := by
  rw [BitVec.getLsbD_append, if_pos Nat.one_pos]
  cases b <;> rfl

/-- Above a one-bit pin stand the bits of the field `x`. -/
theorem getLsbD_append_pin_succ {n : Nat} (x : BitVec n) (b : Bool) (k : Nat) :
    (x ++ BitVec.ofBool b).getLsbD (k + 1) = x.getLsbD k := by
  simp [BitVec.getLsbD_append]

/-- Above the four lowest pins stand MAXBITS, the zero field, RST and HOP. -/
theorem getLsbD_word_above (p : InputPins) (k : Nat) :
    p.word.getLsbD (4 + k) = (p.hostMaxbits ++ 0#9 ++ BitVec.ofBool p.rst ++ p.hostOp).getLsbD k := by
  simp only [InputPins.word, Nat.add_comm 4 k, getLsbD_append_pin_succ]

/-- Above HOP stand MAXBITS, the zero field and RST. -/
theorem getLsbD_word_above_hop (p : InputPins) (k : Nat) :
    p.word.getLsbD (6 + k) = (p.hostMaxbits ++ 0#9 ++ BitVec.ofBool p.rst).getLsbD k := by
  rw [show 6 + k = 4 + (2 + k) by omega, getLsbD_word_above, BitVec.getLsbD_append, if_neg (by omega),
    Nat.add_sub_cancel_left]

theorem packed_lt (m : Memory) (n : Nat) : m.packed n < 2 ^ (8 * n) := by
  induction n with
  | zero => exact Nat.one_pos
  | succ n ih =>
    calc m.packed n + (m.read n).toNat * 2 ^ (8 * n)
      _ < ((m.read n).toNat + 1) * 2 ^ (8 * n) := by
        rw [Nat.succ_mul (m.read n).toNat, Nat.add_comm]
        exact Nat.add_lt_add_left ih _
      _ ≤ 2 ^ 8 * 2 ^ (8 * n) := Nat.mul_le_mul_right _ (m.read n).isLt
      _ = 2 ^ (8 * (n + 1)) := by rw [← pow_add, Nat.mul_succ, Nat.add_comm]

/-- Byte `j` stands in bits 8j+7:8j (rule R49). -/
theorem packed_byte (m : Memory) {j n : Nat} (h : j < n) : m.packed n / 2 ^ (8 * j) % 256 = (m.read j).toNat := by
  induction n with
  | zero => contradiction
  | succ n ih =>
    obtain earlier | rfl := Nat.lt_succ_iff_lt_or_eq.1 h
    · have above : 2 ^ (8 * n) = 2 ^ (8 * j) * (256 * 2 ^ (8 * (n - j - 1))) := by
        rw [show 256 = 2 ^ 8 from rfl, ← pow_add, ← pow_add]
        congr 1
        omega
      rw [Memory.packed, above, Nat.mul_left_comm, Nat.add_mul_div_left _ _ (Nat.two_pow_pos _), Nat.mul_left_comm,
        Nat.add_mul_mod_self_left, ih earlier]
    · rw [Memory.packed, Nat.add_mul_div_right _ _ (Nat.two_pow_pos _), Nat.div_eq_of_lt (packed_lt m j),
        Nat.zero_add, Nat.mod_eq_of_lt (m.read j).isLt]

/-- Settles O9: the input pins field by field from the lowest, and `packed_byte` for OUTBUF. -/
theorem pinsCarryTheWordAndTheOutputs : Obligations.PinsCarryTheWordAndTheOutputs := by
  refine ⟨fun p => ⟨getLsbD_append_pin_zero _ _, ?fall, ?rise, ?wdt, ?hop, ?rst, ?zeroField, ?maxBits⟩,
    fun s => ⟨?state, ?outFmt, rfl, rfl, rfl, fun j hj => packed_byte s.outBuf hj⟩⟩
  case fall => exact (getLsbD_append_pin_succ _ _ 0).trans (getLsbD_append_pin_zero _ _)
  case rise =>
    exact (getLsbD_append_pin_succ _ _ 1).trans ((getLsbD_append_pin_succ _ _ 0).trans (getLsbD_append_pin_zero _ _))
  case wdt =>
    exact (getLsbD_append_pin_succ _ _ 2).trans
      ((getLsbD_append_pin_succ _ _ 1).trans ((getLsbD_append_pin_succ _ _ 0).trans (getLsbD_append_pin_zero _ _)))
  case hop =>
    refine BitVec.eq_of_getLsbD_eq fun k hk => ?_
    rw [BitVec.getLsbD_extractLsb', getLsbD_word_above, BitVec.getLsbD_append, if_pos hk, decide_eq_true hk,
      Bool.true_and]
  case rst => exact (getLsbD_word_above_hop p 0).trans (getLsbD_append_pin_zero _ _)
  case zeroField =>
    refine BitVec.eq_of_getLsbD_eq fun k hk => ?_
    rw [BitVec.getLsbD_extractLsb', show 7 + k = 6 + (k + 1) by omega, getLsbD_word_above_hop, getLsbD_append_pin_succ,
      BitVec.getLsbD_append, if_pos hk, BitVec.getLsbD_zero, Bool.and_false]
  case maxBits =>
    refine BitVec.eq_of_getLsbD_eq fun k hk => ?_
    rw [BitVec.getLsbD_extractLsb', show 16 + k = 6 + (9 + k + 1) by omega, getLsbD_word_above_hop,
      getLsbD_append_pin_succ, BitVec.getLsbD_append, if_neg (by omega), Nat.add_sub_cancel_left, decide_eq_true hk,
      Bool.true_and]
  case state => cases h : s.state <;> simp [State.outputPins, DecoderState.code, h]
  case outFmt => cases h : s.outFmt <;> simp [State.outputPins, ProtocolFormat.code, h]

end Sys2Proof.Machine
end

section
/-! What an edge can do to a state, said once (41_idle_edges.md rules R67 to R70, 42_receiving_edges.md rules R75 to
R80). -/

namespace Sys2Proof.Machine

variable {s t : State}

/-- `EdgeStep s t`: an edge, FALL or RISE, can lead from `s` to `t`. -/
inductive EdgeStep (s : State) : State → Prop where
  | ignored : EdgeStep s s
  | started (idle : s.state = .idle) (unset : s.c1 = none) : EdgeStep s s.fallIdleFirst
  | marked (idle : s.state = .idle) (leader : s.c1.isSome = true) : EdgeStep s (s.stampNow .c2)
  | cleared (idle : s.state = .idle) : EdgeStep s s.fullReset
  | sonyLeader (idle : s.state = .idle) (leader : s.c1.isSome = true) :
    EdgeStep s ((s.stampNow .c2).enterFrame .sony .receiving)
  | pulseLeader {f : ProtocolFormat} (idle : s.state = .idle) (leader : s.c1.isSome = true)
    (mark : s.c2.isSome = true) (format : f = .nec ∨ f = .aeha) :
    EdgeStep s ((s.stampNow .c3).enterFrame f .receiving)
  | repeatLeader {f : ProtocolFormat} (idle : s.state = .idle) (leader : s.c1.isSome = true)
    (format : f = .necRepeat ∨ f = .aehaRepeat) : EdgeStep s (s.enterFrame f .received).clearTs
  | stamped (receiving : s.state = .receiving) : EdgeStep s (s.stampNow .d1)
  | decoded (receiving : s.state = .receiving) (m : BitClass) {tmo : Nat}
    (timeout : tmo = s.cfg.tmoNec ∨ tmo = s.cfg.tmoAeha ∨ tmo = s.cfg.tmoSony) :
    EdgeStep s (((s.stampNow .d2).appendBit m).armTimeout tmo)

/-- Without the end of its mark no leader matches (40_primitives.md rule R53). -/
theorem isSome_c2_of_leaderClass {f : ProtocolFormat} (leader : (s.stampNow .c3).leaderClass = some f) :
    s.c2.isSome = true := by
  cases c2 : s.c2 with
  | some t2 => rfl
  | none => simp [State.leaderClass, c2, diffOf, classifyLeader, inRange] at leader

theorem fallIdleSecond_edgeStep (idle : s.state = .idle) (leader : s.c1.isSome = true) :
    EdgeStep s s.fallIdleSecond := by
  cases kind : (s.stampNow .c3).leaderClass with
  | none => exact fallIdleSecond_mismatch kind ▸ .cleared idle
  | some f =>
    have mark := isSome_c2_of_leaderClass kind
    cases f with
    | nec => exact fallIdleSecond_nec kind ▸ .pulseLeader idle leader mark (.inl rfl)
    | aeha => exact fallIdleSecond_aeha kind ▸ .pulseLeader idle leader mark (.inr rfl)
    | necRepeat => exact fallIdleSecond_necRepeat kind ▸ .repeatLeader idle leader (.inl rfl)
    | aehaRepeat => exact fallIdleSecond_aehaRepeat kind ▸ .repeatLeader idle leader (.inr rfl)
    | unknown | sony =>
      simp only [State.fallIdleSecond, kind]
      exact .cleared idle

theorem fallEdge_edgeStep (s : State) : EdgeStep s s.fallEdge := by
  by_cases idle : s.state = .idle
  · cases c1 : s.c1 with
    | none =>
      have first : s.fallEdge = s.fallIdleFirst := after_eq_of_exec (exec_fall_first idle c1)
      exact first ▸ .started idle c1
    | some t1 =>
      have second : s.fallEdge = s.fallIdleSecond := after_eq_of_exec (exec_fall_second idle c1)
      exact second ▸ fallIdleSecond_edgeStep idle (c1 ▸ rfl)
  · obtain ⟨receiving, nec | aeha⟩ | ⟨receiving, sony⟩ | ignores := edge_cases_of_not_idle s idle
    · exact fallEdge_pulseDistance receiving (.inl ⟨nec, rfl, rfl⟩) ▸ .decoded receiving _ (.inl rfl)
    · exact fallEdge_pulseDistance receiving (.inr ⟨aeha, rfl, rfl⟩) ▸ .decoded receiving _ (.inr (.inl rfl))
    · exact fallEdge_sony receiving sony ▸ .stamped receiving
    · exact (fallEdge_of_ignoresEdges ignores).1.symm ▸ .ignored

/-- A stray rising edge performs FullReset (41_idle_edges.md rule R70). -/
theorem riseEdge_stray (idle : s.state = .idle) (unset : s.c1 = none) : s.riseEdge = s.fullReset := by
  simp only [State.riseEdge, idle, valid_c1_of_unset unset, Bool.false_eq_true, if_false, State.riseIdleStray]

theorem riseEdge_edgeStep (s : State) : EdgeStep s s.riseEdge := by
  by_cases idle : s.state = .idle
  · cases c1 : s.c1 with
    | none => exact riseEdge_stray idle c1 ▸ .cleared idle
    | some t1 =>
      have mark : s.riseEdge = s.riseIdleMark := after_eq_of_exec (exec_rise_mark c1 idle)
      have leader : s.c1.isSome = true := c1 ▸ rfl
      rw [mark, riseIdleMark_eq c1]
      split_ifs
      · exact .sonyLeader idle leader
      · exact .cleared idle
      · exact .marked idle leader
  · obtain ⟨receiving, format⟩ | ⟨receiving, sony⟩ | ignores := edge_cases_of_not_idle s idle
    · exact riseEdge_pulseDistance receiving format ▸ .stamped receiving
    · exact riseEdge_sony receiving sony ▸ .decoded receiving _ (.inr (.inr rfl))
    · exact (riseEdge_of_ignoresEdges ignores).1.symm ▸ .ignored


end Sys2Proof.Machine
end

section
/-! What the operations leave of two registers: ELAPSED (10_state.md section 4) and BITS (10_state.md rule R13,
20_memory.md rule R33). -/

namespace Sys2Proof.Machine

variable {s t : State} {i : Instr}

/-! ### ELAPSED -/

/-- The clock goes on from where it stands, or it is stopped (10_state.md section 4). -/
theorem EdgeStep.clock (h : EdgeStep s t) : t.elapsed = s.elapsed ∨ t.run = false := by
  cases h with
  | cleared => exact .inr rfl
  | decoded =>
    rw [appendBit_frame]
    exact .inl rfl
  | _ => exact .inl rfl

theorem elapsed_le_tick (s : State) : s.elapsed ≤ (s.after .tick).elapsed := by
  rw [State.after, tickTimeout_frame, tickElapsed_eq]
  dsimp only
  split <;> omega

/-- Every operation but TICK leaves ELAPSED alone or stops the clock. -/
theorem after_clock (s : State) (noTick : i ≠ .tick) :
    (s.after i).elapsed = s.elapsed ∨ (s.after i).run = false := by
  cases i with
  | tick => contradiction
  | rst => exact .inr rfl
  | nop => exact .inl rfl
  | getstate => exact .inl rfl
  | fall => exact (fallEdge_edgeStep s).clock
  | rise => exact (riseEdge_edgeStep s).clock
  | wdt =>
    rw [State.after, State.watchdogTick]
    split_ifs
    · exact .inr rfl
    · exact .inl rfl
    · exact .inl rfl
  | getdata m =>
    obtain tooLong | fits := Nat.lt_or_ge m.toNat s.bitCount
    · rw [State.after, getData_of_lt tooLong]
      exact .inl rfl
    · rw [State.after, getData_of_le fits]
      exact .inr rfl

/-- Settles O49: `elapsed_le_tick` for TICK, `after_clock` for the rest. -/
theorem elapsedIsMonotonicWhileRunning : Obligations.ElapsedIsMonotonicWhileRunning := by
  intro i s t h _ running
  obtain rfl := after_eq_of_exec h
  by_cases tick : i = .tick
  · exact tick ▸ elapsed_le_tick s
  · obtain same | stopped := after_clock s tick
    · exact same.ge
    · exact absurd (running.symm.trans stopped) (by decide)


/-! ### BITS -/

/-- AppendBit changes the one frame bit at BITCOUNT, or nothing (40_primitives.md rule R58). -/
theorem appendBit_bits_cases (s : State) (m : BitClass) :
    (s.appendBit m).bits = s.bits ∨
      (s.bitCount < s.cfg.capBits ∧ (s.appendBit m).bitCount = s.bitCount + 1 ∧
        ∀ k, k ≠ s.bitCount → (s.appendBit m).bits.bit k = s.bits.bit k) := by
  obtain room | full := Nat.lt_or_ge s.bitCount s.cfg.capBits
  · refine .inr ⟨room, (appendBit_bitCount s m).trans (if_pos room), fun k other => ?_⟩
    exact (appendBit_bit s m k).trans (if_neg fun ⟨_, same⟩ => other same)
  · exact .inl (congrArg State.bits (appendBit_of_full m full))

/-- An edge leaves BITS alone, clears it, or in Receiving changes the one frame bit at BITCOUNT. -/
theorem EdgeStep.bits (h : EdgeStep s t) :
    t.bits = s.bits ∨ (t.state = .idle ∧ t.bitCount = 0 ∧ t.bits = []) ∨
      (s.state = .receiving ∧ s.bitCount < s.cfg.capBits ∧ t.bitCount = s.bitCount + 1 ∧
        ∀ k, k ≠ s.bitCount → t.bits.bit k = s.bits.bit k) := by
  cases h with
  | cleared => exact .inr (.inl ⟨rfl, rfl, rfl⟩)
  | decoded receiving m =>
    obtain dropped | appended := appendBit_bits_cases (s.stampNow .d2) m
    · exact .inl dropped
    · exact .inr (.inr ⟨receiving, appended⟩)
  | _ => exact .inl rfl

/-- An operation that is no edge leaves BITS alone or clears it. -/
theorem after_bits (s : State) (noFall : i ≠ .fall) (noRise : i ≠ .rise) :
    (s.after i).bits = s.bits ∨
      ((s.after i).state = .idle ∧ (s.after i).bitCount = 0 ∧ (s.after i).bits = []) := by
  cases i with
  | fall => contradiction
  | rise => contradiction
  | rst => exact .inr ⟨rfl, rfl, rfl⟩
  | nop => exact .inl rfl
  | getstate => exact .inl rfl
  | tick =>
    rw [State.after, tickTimeout_frame, tickElapsed_eq]
    exact .inl rfl
  | wdt =>
    rw [State.after, State.watchdogTick]
    split_ifs
    · exact .inr ⟨rfl, rfl, rfl⟩
    · exact .inl rfl
    · exact .inl rfl
  | getdata m =>
    obtain tooLong | fits := Nat.lt_or_ge m.toNat s.bitCount
    · rw [State.after, getData_of_lt tooLong]
      exact .inl rfl
    · rw [State.after, getData_of_le fits]
      exact .inr ⟨rfl, rfl, rfl⟩

/-- Settles O43: `EdgeStep.bits` for the edges, `after_bits` for the rest. -/
theorem frameBitsFrame : Obligations.FrameBitsFrame := by
  intro i s t h
  obtain rfl := after_eq_of_exec h
  by_cases edge : i = .fall ∨ i = .rise
  · have step : EdgeStep s (s.after i) := by
      obtain rfl | rfl := edge
      · exact fallEdge_edgeStep s
      · exact riseEdge_edgeStep s
    obtain kept | ⟨idle, empty, cleared⟩ | ⟨receiving, appended⟩ := step.bits
    · exact .inl fun j => congrArg (Memory.read · j) kept
    · exact .inr (.inl ⟨idle, empty, fun j => congrArg (Memory.read · j) cleared⟩)
    · exact .inr (.inr ⟨receiving, edge, appended⟩)
  · obtain ⟨noFall, noRise⟩ := not_or.1 edge
    obtain kept | ⟨idle, empty, cleared⟩ := after_bits s noFall noRise
    · exact .inl fun j => congrArg (Memory.read · j) kept
    · exact .inr (.inl ⟨idle, empty, fun j => congrArg (Memory.read · j) cleared⟩)

end Sys2Proof.Machine
end

section
/-! Every step keeps the invariant (10_state.md section 8): one lemma for each shared operation and each outcome of an
edge, then for the operations, for a word's operations in order and for the step. -/

namespace Sys2Proof.Machine

variable {s t : State} {i : Instr}

/-! ### FullReset and RST -/

/-- The part of the invariant that FullReset does not touch: the configuration and the host-side registers. -/
structure HostBounds (s : State) : Prop where
  cfg_wf : s.cfg.wf
  wdCnt_le : s.wdCnt ≤ s.cfg.wdThreshold
  outCnt_le : s.outCnt ≤ s.cfg.capBits
  retVal_le : s.retVal ≤ s.cfg.capBits
  outBuf_bound : ∀ j, s.cfg.capBytes ≤ j → s.outBuf.read j = 0
  outBuf_wf : s.outBuf.wf

theorem Inv.hostBounds (h : Inv s) : HostBounds s := { h with }

/-- FullReset sets up the rest of the invariant from any state (40_primitives.md rule R57). -/
theorem HostBounds.inv_fullReset (h : HostBounds s) : Inv s.fullReset := by
  constructor
  case cfg_wf => exact h.cfg_wf
  case wdCnt_le => exact h.wdCnt_le
  case outCnt_le => exact h.outCnt_le
  case retVal_le => exact h.retVal_le
  case outBuf_bound => exact h.outBuf_bound
  case outBuf_wf => exact h.outBuf_wf
  case stamp_le_elapsed => intro k; cases k <;> simp
  case bits_wf => exact ⟨.nil, by simp⟩
  case stopped => exact fun _ => ⟨rfl, rfl, fullReset_stampsUnset s⟩
  all_goals simp [Memory.bit]

theorem inv_hardReset (h : s.cfg.wf) : Inv s.hardReset := by
  have zeroed : HostBounds
      { s with wdCnt := 0, outFmt := .unknown, outCnt := 0, outBuf := [], retErr := false, retVal := 0 } :=
    ⟨h, Nat.zero_le _, Nat.zero_le _, Nat.zero_le _, fun _ _ => rfl, ⟨.nil, by simp⟩⟩
  exact zeroed.inv_fullReset

/-- Settles O46: RST's state, with the default parameters. -/
theorem resetMeetsTheInvariant : Obligations.ResetMeetsTheInvariant :=
  inv_hardReset (s := State.reset) (by decide)

/-! ### Timestamps -/

theorem stamp_stampNow (s : State) (p k : Stamp) :
    (s.stampNow p).stamp k = if k = p then some s.elapsed else s.stamp k := by
  cases p <;> cases k <;> rfl

namespace Inv

section Operations

variable (h : Inv s)
include h

/-- A timestamp just taken is not later than ELAPSED either. -/
theorem stampNow_le_elapsed (p k : Stamp) (t : Nat) (stamped : (s.stampNow p).stamp k = some t) : t ≤ s.elapsed := by
  rw [stamp_stampNow] at stamped
  split at stamped
  · exact (Option.some.inj stamped).ge
  · exact h.stamp_le_elapsed k t stamped

theorem dropWord : Inv s.dropWord := { h with }

theorem presentWord (w : Word) : Inv (s.presentWord w) := { h with }

theorem setResult (e : Bool) {v : Nat} (hv : v ≤ s.cfg.capBits) : Inv (s.setResult e v) := { h with retVal_le := hv }

theorem setWdCnt {n : Nat} (hn : n ≤ s.cfg.wdThreshold) : Inv { s with wdCnt := n } := { h with wdCnt_le := hn }

theorem fullReset : Inv s.fullReset := h.hostBounds.inv_fullReset

/-- A frame is held: Received, with no timestamp set (10_state.md rule R23 (c)). -/
theorem enterHeld {f : ProtocolFormat} {n : Nat} (running : s.run = true) (disarmed : s.tmoArmed = false)
    (known : f ≠ .unknown) (fits : n ≤ s.cfg.capBits) (empty : f = .necRepeat ∨ f = .aehaRepeat → n = 0)
    (tail : ∀ i, n ≤ i → s.bits.bit i = false) :
    Inv { s with state := .received, format := f, bitCount := n }.clearTs :=
  { h with
    count_le := fits
    receiving_format := nofun
    receiving_stamps := nofun
    receiving_leader := nofun
    received_unset := fun _ => ⟨⟨rfl, rfl, rfl, rfl, rfl⟩, disarmed⟩
    received_format := fun _ => known
    armed := fun armed => nomatch disarmed.symm.trans armed
    stopped := fun stopped => nomatch running.symm.trans stopped
    started := nofun
    rest_stopped := nofun
    c1_zero := nofun
    order_c1_c2 := nofun
    order_c2_c3 := nofun
    stamp_le_elapsed := fun k => by cases k <;> exact nofun
    repeat_frame := fun isRepeat => ⟨rfl, empty isRepeat⟩
    tail_zero := tail
    idle_frame := nofun
    idle_c2 := nofun }

/-! ### Edges in Idle -/

section Idle

variable (idle : s.state = .idle)
include idle

theorem disarmed_of_idle : s.tmoArmed = false := by
  obtain ⟨-, -, -, -, -, -, disarmed⟩ := h.idle_frame idle
  exact disarmed

/-- R67, R70: Idle with T[c1] unset is the FullReset state. -/
theorem rest_of_c1_unset (unset : s.c1 = none) : s.elapsed = 0 ∧ s.stampsUnset := by
  obtain ⟨elapsed, -, stamps⟩ := h.stopped (h.rest_stopped idle unset)
  exact ⟨elapsed, stamps⟩

/-- The first falling edge finds the clock at 0 (41_idle_edges.md rule R67). -/
theorem fallIdleFirst (unset : s.c1 = none) : Inv s.fallIdleFirst := by
  obtain ⟨elapsed, -, c2, -⟩ := h.rest_of_c1_unset idle unset
  exact {
    h with
    receiving_stamps := fun receiving => nomatch idle.symm.trans receiving
    received_unset := fun received => nomatch idle.symm.trans received
    stopped := nofun
    started := fun _ => rfl
    rest_stopped := nofun
    c1_zero := fun t stamped => (Option.some.inj stamped).symm.trans elapsed
    order_c1_c2 := fun t u _ mark => nomatch c2.symm.trans mark
    stamp_le_elapsed := h.stampNow_le_elapsed .c1
    idle_c2 := fun _ _ => rfl }

variable (leader : s.c1.isSome = true)
include leader

/-- The end of the first mark (rule R69). -/
theorem stampNow_c2 : Inv (s.stampNow .c2) :=
  have running := h.started leader
  { h with
    receiving_stamps := fun _ => ⟨leader, rfl⟩
    received_unset := fun received => nomatch idle.symm.trans received
    stopped := fun stopped => nomatch running.symm.trans stopped
    order_c1_c2 := fun t u first _ => (h.c1_zero t first).trans_le (Nat.zero_le u)
    order_c2_c3 := fun t u _ space => by
      obtain ⟨-, -, -, c3, -⟩ := h.idle_frame idle
      exact nomatch c3.symm.trans space
    stamp_le_elapsed := h.stampNow_le_elapsed .c2
    idle_c2 := fun _ _ => leader }

/-- A leader begins a frame (rules R68, R69): the space's end is stamped for NEC and AEHA. -/
theorem enterReceiving {f : ProtocolFormat} {c3 : Option Nat} (mark : s.c2.isSome = true)
    (format : f = .nec ∨ f = .aeha ∨ f = .sony) (stamped : c3 = s.c3 ∨ c3 = some s.elapsed)
    (space : f = .nec ∨ f = .aeha → c3.isSome = true) : Inv ((s.setStamp .c3 c3).enterFrame f .receiving) := by
  have running := h.started leader
  obtain ⟨-, -, empty, unset, -⟩ := h.idle_frame idle
  have c3_elapsed : ∀ u, c3 = some u → u = s.elapsed := by
    rintro u rfl
    obtain same | now := stamped
    · exact nomatch unset.symm.trans same.symm
    · exact Option.some.inj now
  exact {
    h with
    count_le := Nat.zero_le _
    receiving_format := fun _ => format
    receiving_stamps := fun _ => ⟨leader, mark⟩
    receiving_leader := fun _ => space
    received_unset := nofun
    received_format := nofun
    armed := fun armed => nomatch (h.disarmed_of_idle idle).symm.trans armed
    stopped := fun stopped => nomatch running.symm.trans stopped
    rest_stopped := nofun
    order_c2_c3 := fun t u c2 c3 => (h.stamp_le_elapsed .c2 t c2).trans (c3_elapsed u c3).ge
    stamp_le_elapsed := by
      obtain rfl | rfl := stamped
      · exact h.stamp_le_elapsed
      · exact h.stampNow_le_elapsed .c3
    repeat_frame := by rintro (rfl | rfl) <;> simp at format
    tail_zero := fun i _ => Memory.bit_of_read_zero (empty _)
    idle_frame := nofun
    idle_c2 := nofun }

/-- A repeat leader is a whole frame, without a bit (rule R68). -/
theorem enterReceived {f : ProtocolFormat} (format : f = .necRepeat ∨ f = .aehaRepeat) :
    Inv (s.enterFrame f .received).clearTs := by
  obtain ⟨-, -, empty, -⟩ := h.idle_frame idle
  have known : f ≠ .unknown := by rintro rfl; simp at format
  exact h.enterHeld (h.started leader) (h.disarmed_of_idle idle) known (Nat.zero_le _) (fun _ => rfl)
    fun i _ => Memory.bit_of_read_zero (empty _)

end Idle

/-! ### Edges in Receiving -/

/-- CAP_BYTES is at least 1 (00_scope.md rule R5). -/
theorem eight_le_capBits : 8 ≤ s.cfg.capBits := Nat.le_mul_of_pos_right 8 h.cfg_wf.1

/-- A bit has just been counted, or the frame is full. -/
theorem appendBit_positive (m : BitClass) : 1 ≤ (s.appendBit m).bitCount := by
  have capacity := h.eight_le_capBits
  rw [appendBit_bitCount]
  split <;> omega

/-- Every timeout is at least 1 and at most the longest (40_primitives.md rule R56). -/
theorem timeout_bounds {tmo : Nat} (timeout : tmo = s.cfg.tmoNec ∨ tmo = s.cfg.tmoAeha ∨ tmo = s.cfg.tmoSony) :
    1 ≤ tmo ∧ tmo ≤ s.cfg.tmoMax := by
  obtain ⟨-, nec, aeha, sony, -⟩ := h.cfg_wf
  obtain rfl | rfl | rfl := timeout
  · exact ⟨nec, le_max_left _ _⟩
  · exact ⟨aeha, (le_max_left _ _).trans (le_max_right _ _)⟩
  · exact ⟨sony, (le_max_right _ _).trans (le_max_right _ _)⟩

section Receiving

variable (receiving : s.state = .receiving)
include receiving

theorem stampNow_bit {k : Stamp} (bit : k = .d1 ∨ k = .d2) : Inv (s.stampNow k) := by
  have running := h.run_of_receiving receiving
  obtain rfl | rfl := bit
  all_goals exact {
    h with
    received_unset := fun received => nomatch receiving.symm.trans received
    stopped := fun stopped => nomatch running.symm.trans stopped
    stamp_le_elapsed := h.stampNow_le_elapsed _
    idle_frame := fun idle => nomatch receiving.symm.trans idle }

theorem appendBit (m : BitClass) : Inv (s.appendBit m) := by
  have count := appendBit_bitCount s m
  have fits := h.count_le
  rw [appendBit_frame]
  exact {
    h with
    count_le := show (s.appendBit m).bitCount ≤ s.cfg.capBits from count.trans_le (by split <;> omega)
    armed := fun armed => by
      obtain ⟨state, bit, pending⟩ := h.armed armed
      exact ⟨state, bit.trans (count.ge.trans' (by split <;> omega)), pending⟩
    repeat_frame := fun format => by
      obtain ⟨received, -⟩ := h.repeat_frame format
      exact nomatch receiving.symm.trans received
    tail_zero := fun i beyond => by
      have later := count.symm.trans_le beyond
      have old : s.bitCount ≤ i ∧ ¬(s.bitCount < s.cfg.capBits ∧ i = s.bitCount) := by split at later <;> omega
      exact (appendBit_bit s m i).trans ((if_neg old.2).trans (h.tail_zero i old.1))
    idle_frame := fun idle => nomatch receiving.symm.trans idle
    bits_wf := appendBit_bits_wf s m h.bits_wf }

theorem armTimeout {d : Nat} (bit : 1 ≤ s.bitCount) (positive : 1 ≤ d) (bounded : d ≤ s.cfg.tmoMax) :
    Inv (s.armTimeout d) :=
  { h with
    received_unset := fun received => nomatch receiving.symm.trans received
    armed := fun _ => ⟨receiving, bit, positive, bounded⟩
    disarmed := nofun
    idle_frame := fun idle => nomatch receiving.symm.trans idle }

theorem cancelTimeout : Inv s.cancelTimeout :=
  { h with
    received_unset := fun received => nomatch receiving.symm.trans received
    armed := nofun
    disarmed := fun _ => rfl
    idle_frame := fun idle => nomatch receiving.symm.trans idle }

end Receiving

/-! ### TICK -/

/-- ELAPSED may grow while the clock runs (rule R85). -/
theorem setElapsed {e : Nat} (running : s.run = true) (grows : s.elapsed ≤ e) (width : e < 2 ^ s.cfg.wT) :
    Inv { s with elapsed := e } :=
  { h with
    stopped := fun stopped => nomatch running.symm.trans stopped
    stamp_le_elapsed := fun k t stamped => (h.stamp_le_elapsed k t stamped).trans grows
    elapsed_width := width }

theorem tickElapsed : Inv s.tickElapsed := by
  rw [tickElapsed_eq]
  split_ifs with counts
  · obtain ⟨running, room⟩ := counts
    exact h.setElapsed running (Nat.le_succ _) (Nat.add_lt_of_lt_sub room)
  · exact h

/-- An armed timeout counts down, and its firing ends the frame (rules R85, R86). -/
theorem tickTimeout : Inv s.tickTimeout := by
  rw [tickTimeout_eq]
  split_ifs with disarmed pending receiving
  · exact h
  · exact {
      h with
      received_unset := fun received => absurd (h.received_unset received).2 disarmed
      armed := fun armed => by
        obtain ⟨receiving, bit, -, bounded⟩ := h.armed armed
        exact ⟨receiving, bit, Nat.le_sub_of_add_le pending, (Nat.sub_le _ _).trans bounded⟩
      disarmed := fun off => absurd off disarmed }
  · have known : s.format ≠ .unknown := fun unknown => by simpa [unknown] using h.receiving_format receiving
    exact (h.cancelTimeout receiving).enterHeld (h.run_of_receiving receiving) rfl known h.count_le
      (fun isRepeat => (h.repeat_frame isRepeat).2) h.tail_zero
  · obtain ⟨yes, -⟩ := h.armed (Bool.eq_true_of_not_eq_false disarmed)
    exact absurd yes receiving

/-! ### Operations -/

theorem edgeStep (step : EdgeStep s t) : Inv t := by
  cases step with
  | ignored => exact h
  | started idle unset => exact h.fallIdleFirst idle unset
  | marked idle leader => exact h.stampNow_c2 idle leader
  | cleared => exact h.fullReset
  | sonyLeader idle leader =>
    exact (h.stampNow_c2 idle leader).enterReceiving idle leader rfl (.inr (.inr rfl)) (.inl rfl) (by simp)
  | pulseLeader idle leader mark format =>
    exact h.enterReceiving idle leader mark (format.imp_right .inl) (.inr rfl) fun _ => rfl
  | repeatLeader idle leader format => exact h.enterReceived idle leader format
  | stamped receiving => exact h.stampNow_bit receiving (.inl rfl)
  | @decoded receiving m tmo timeout =>
    have stamped := h.stampNow_bit receiving (.inr rfl)
    have appended := stamped.appendBit receiving m
    have bit := stamped.appendBit_positive m
    have bounds := h.timeout_bounds timeout
    rw [appendBit_frame] at appended bit ⊢
    exact appended.armTimeout receiving bit bounds.1 bounds.2

theorem watchdogTick : Inv s.watchdogTick := by
  unfold State.watchdogTick
  split_ifs with busy exceeds
  · exact h.fullReset.setWdCnt (Nat.zero_le _)
  · exact h.setWdCnt (Nat.not_lt.1 exceeds)
  · exact h.setWdCnt (Nat.zero_le _)

theorem getData (m : BitVec 16) : Inv (s.getData m) := by
  obtain tooLong | fits := Nat.lt_or_ge m.toNat s.bitCount
  · rw [getData_of_lt tooLong]
    exact h.setResult true (Nat.zero_le _)
  · rw [getData_of_le fits]
    have copied : HostBounds s.copyFrame := {
      h.hostBounds with
      outCnt_le := h.count_le
      outBuf_bound := fun j beyond => by
        have whole : s.bitCount ≤ 8 * j := h.count_le.trans (Nat.mul_le_mul_left 8 beyond)
        rw [copyFrame_outBuf, read_copy_bytesFor, if_neg (Nat.not_lt.2 whole)]
        exact h.outBuf_bound j beyond
      outBuf_wf := Memory.copy_wf _ _ h.outBuf_wf }
    exact copied.inv_fullReset.setResult false h.count_le

theorem after (i : Instr) : Inv (s.after i) := by
  cases i with
  | rst => exact inv_hardReset h.cfg_wf
  | nop => exact h
  | tick => exact h.tickElapsed.tickTimeout
  | fall => exact h.edgeStep (fallEdge_edgeStep s)
  | rise => exact h.edgeStep (riseEdge_edgeStep s)
  | wdt => exact h.watchdogTick
  | getstate =>
    have capacity := h.eight_le_capBits
    have code_le : s.state.code ≤ 2 := by cases s.state <;> decide
    exact h.setResult false (code_le.trans (by omega))
  | getdata m => exact h.getData m

end Operations

theorem foldl_after {ops : List Instr} (h : Inv s) : Inv (ops.foldl State.after s) := by
  induction ops generalizing s with
  | nil => exact h
  | cons i ops ih => exact ih (h.after i)

theorem step (h : Inv s) (next : step s = .next t) : Inv t := by
  obtain ⟨ops, -, rfl⟩ := step_next next
  exact h.dropWord.foldl_after

end Inv

/-- Settles O47: `Inv.after` for each operation of the sampled word. -/
theorem stepKeepsTheInvariant : Obligations.StepKeepsTheInvariant := fun _ _ => Inv.step

end Sys2Proof.Machine
end

section
/-! Measurement (40_primitives.md sections 2 and 3, 41_idle_edges.md section 4): the accepted intervals, differences
that cannot underflow, the decision table of Idle, and the packing of a frame's bits. -/

namespace Sys2Proof.Machine

variable {s : State}

/-! ### The accepted intervals (rules R51, R52) -/

/-- At the default tolerance a measurement lies in the band of `n` when ten times it lies between 7n and 13n. -/
theorem inRange_default (x n : Nat) :
    inRange Config.default (some x) n = true ↔ 7 * n < 10 * x ∧ 10 * x < 13 * n := inRange_some Config.default x n

/-- Settles O16: `inRange_default` at each nominal. -/
theorem acceptedIntervals : Obligations.AcceptedIntervals := by
  simp only [Obligations.AcceptedIntervals, inRange_default]
  refine ⟨?_, ?_, ?_, ?_, ?_, ?_, ?_, ?_, ?_, ?_, ?_, ?_, ?_⟩ <;> intro x <;> omega

/-! ### Differences (rule R53) -/

theorem isSome_diffOf (p q : Option Nat) : (diffOf p q).isSome = (p.isSome && q.isSome) := by
  cases p <;> cases q <;> rfl

/-- What an edge measures from a timestamp to now adds up with it to ELAPSED. -/
theorem Inv.diff_stampNow (inv : Inv s) {p q : Stamp} (different : q ≠ p) {u v : Nat}
    (diff : (s.stampNow p).diff p q = some u) (stamped : s.stamp q = some v) :
    u + v = s.elapsed ∧ u ≤ 2 ^ s.cfg.wT - 1 := by
  rw [diff_eq, stamp_stampNow, stamp_stampNow, if_pos rfl, if_neg different, stamped] at diff
  obtain rfl := Option.some.inj diff
  have past := inv.stamp_le_elapsed q v stamped
  have width := inv.elapsed_width
  omega

/-- Settles O17: `Inv.diff_stampNow` for the edges, and the order of the leader's timestamps for c2 − c1. -/
theorem differencesNeverUnderflow : Obligations.DifferencesNeverUnderflow := by
  refine ⟨fun s p q => isSome_diffOf _ _, fun s p q inv pair u v diff stamped => ?_,
    fun s u v w inv diff first second => ?_⟩
  · have different : q ≠ p := by
      obtain h | h | h := pair <;> cases h <;> decide
    exact inv.diff_stampNow different diff stamped
  · rw [stamp_c1] at first
    rw [stamp_c2] at second
    have measured : some (w - v) = some u := by
      rw [← diff, diff_eq]
      exact (congrArg₂ diffOf second first).symm
    obtain rfl := Option.some.inj measured
    have order := inv.order_c1_c2 v w first second
    have width := inv.stamp_width (k := .c2) second
    omega

/-! ### Idle -/

/-- In Idle with T[c1] unset every register has the value FullReset gives it (10_state.md section 8). -/
theorem Inv.fullReset_eq_self (inv : Inv s) (idle : s.state = .idle) (unset : s.c1 = none) : s.fullReset = s := by
  have stopped := inv.rest_stopped idle unset
  obtain ⟨elapsed, c1, c2, c3, d1, d2⟩ := inv.rest_of_c1_unset idle unset
  obtain ⟨format, count, empty, -, -, -, disarmed⟩ := inv.idle_frame idle
  have bits := Memory.eq_nil_of_read_zero inv.bits_wf empty
  have tmoCnt := inv.disarmed disarmed
  cases s
  simp_all [State.fullReset, State.clearTs, State.cancelTimeout]

/-- Settles O30: the dispatch of RISE, and `Inv.fullReset_eq_self`. -/
theorem strayRiseChangesNothing : Obligations.StrayRiseChangesNothing := by
  intro s idle unset
  have reset : exec .rise s = .next s.fullReset := (exec_eq .rise s).trans (congrArg _ (riseEdge_stray idle unset))
  refine ⟨reset, ?_, fun inv => ?_⟩
  · simp only [signals, riseSignals, idle, valid_c1_of_unset unset, Bool.false_eq_true, if_false]
  · rw [reset, inv.fullReset_eq_self idle unset]

/-- A falling edge in a leader whose mark has not ended matches none (41_idle_edges.md rule R68). -/
theorem exec_fall_unmarked {t1 : Nat} (idle : s.state = .idle) (c1 : s.c1 = some t1) (c2 : s.c2 = none) :
    exec .fall s = .next s.fullReset := by
  cases kind : (s.stampNow .c3).leaderClass with
  | none => rw [exec_fall_second idle c1, fallIdleSecond_mismatch kind]
  | some f => exact nomatch (congrArg Option.isSome c2).symm.trans (isSome_c2_of_leaderClass kind)

theorem inRange_sonyLeader (x : Nat) :
    inRange Config.default (some x) Config.default.nSonyLeader = true ↔ 1681 ≤ x ∧ x ≤ 3119 := by
  obtain ⟨-, -, -, -, -, -, -, -, -, -, -, nominal, -⟩ := nominalDurations
  obtain ⟨-, -, -, -, -, -, -, -, -, in2400, -⟩ := acceptedIntervals
  rw [nominal]
  exact in2400 x

section DefaultTable

variable (default : s.cfg = Config.default) (idle : s.state = .idle) (c1 : s.c1 = some 0)
include default idle c1

/-- The rows of the rising edge, in microseconds (rules R69, R71). -/
theorem riseEdge_default (unknown : s.format = .unknown) :
    s.riseEdge.sequencing =
      if 1681 ≤ s.elapsed ∧ s.elapsed ≤ 3119 then (.receiving, .sony) else (.idle, .unknown) := by
  have pair : s.sequencing = (.idle, .unknown) := Prod.ext idle unknown
  have rise := riseEdge_sequencing_idle idle
  simp only [c1, default, Option.map_some, Nat.sub_zero, inRange_sonyLeader, pair, ite_self] at rise
  exact rise

/-- The rows of the second falling edge, in microseconds (rules R68, R71). -/
theorem fallEdge_default {m : Nat} (c2 : s.c2 = some m) :
    s.fallEdge.sequencing =
      let b := s.elapsed - m
      if 6295 ≤ m ∧ m ≤ 11689 ∧ 3148 ≤ b ∧ b ≤ 5844 then (.receiving, .nec)
      else if 6295 ≤ m ∧ m ≤ 11689 ∧ 1574 ≤ b ∧ b ≤ 2922 then (.received, .necRepeat)
      else if 2381 ≤ m ∧ m ≤ 4419 ∧ 1191 ≤ b ∧ b ≤ 2209 then (.receiving, .aeha)
      else if 2381 ≤ m ∧ m ≤ 4419 ∧ 2381 ≤ b ∧ b ≤ 4419 then (.received, .aehaRepeat)
      else (.idle, .unknown) := by
  obtain ⟨-, -, -, necMark, necrMark, necSpace, necrSpace, aehaMark, aeharMark, aehaSpace, aeharSpace, -⟩ :=
    nominalDurations
  obtain ⟨in8992, in4496, in2248, -, -, in3400, in1700, -⟩ := acceptedIntervals
  have fall := fallEdge_sequencing_idle idle
  simp only [c1, c2, default, Option.isSome_some, if_true, Option.bind_some, Option.map_some, Nat.sub_zero, necMark,
    necrMark, necSpace, necrSpace, aehaMark, aeharMark, aehaSpace, aeharSpace, in8992, in4496, in2248, in3400, in1700,
    and_assoc] at fall
  exact fall

/-- A mark below MIN_LEADER is below every SONY mark, and noise (rule R69). -/
theorem exec_rise_noise (noise : s.elapsed ≤ 149) : exec .rise s = .next s.fullReset := by
  obtain ⟨-, below, -⟩ := riseInIdleTriesSonyThenNoise s 0 idle c1
  rw [default] at below
  have noSony := (inRange_sonyLeader s.elapsed).not.2 (by omega)
  exact (below noSony (Nat.lt_succ_of_le noise)).1

end DefaultTable

/-- Settles O35: each row of the table in microseconds, `acceptedIntervals` at the nominal durations. -/
theorem idleDecisionTable : Obligations.IdleDecisionTable := by
  intro s inv default idle leader
  obtain ⟨t1, c1⟩ := Option.isSome_iff_exists.1 leader
  obtain rfl := inv.c1_zero t1 c1
  obtain ⟨unknown, -⟩ := inv.idle_frame idle
  exact ⟨⟨_, exec_eq _ _, riseEdge_default default idle c1 unknown⟩, exec_rise_noise default idle c1,
    exec_fall_unmarked idle c1, fun m c2 => ⟨_, exec_eq _ _, fallEdge_default default idle c1 c2⟩⟩

/-! ### The packing of a frame's bits (20_memory.md rule R31, 40_primitives.md rule R58) -/

theorem appendBit_cfg (s : State) (m : BitClass) : (s.appendBit m).cfg = s.cfg :=
  congrArg Prod.fst (appendBit_fixedPart s m)

theorem foldl_appendBit_cfg (ms : List BitClass) : (ms.foldl State.appendBit s).cfg = s.cfg := by
  induction ms generalizing s with
  | nil => rfl
  | cons m ms ih => exact ih.trans (appendBit_cfg s m)

/-- From an empty frame, bit `i` is 1 exactly when the `i`-th interval was classified as 1. -/
theorem foldl_appendBit_of_empty (empty : s.bitCount = 0) (zero : ∀ j, s.bits.read j = 0) (ms : List BitClass)
    (fits : ms.length ≤ s.cfg.capBits) :
    (ms.foldl State.appendBit s).bitCount = ms.length ∧
      ∀ i, (ms.foldl State.appendBit s).bits.bit i = decide (ms[i]? = some .one) := by
  induction ms using List.reverseRecOn with
  | nil => exact ⟨empty, fun i => Memory.bit_of_read_zero (zero _)⟩
  | append_singleton ms m ih =>
    rw [List.length_append, List.length_singleton] at fits
    obtain ⟨count, bits⟩ := ih (by omega)
    rw [List.foldl_append, List.foldl_cons, List.foldl_nil]
    have room : (ms.foldl State.appendBit s).bitCount < (ms.foldl State.appendBit s).cfg.capBits := by
      rw [foldl_appendBit_cfg, count]
      exact fits
    refine ⟨?_, fun i => ?_⟩
    · rw [appendBit_bitCount, if_pos room, count, List.length_append, List.length_singleton]
    · rw [appendBit_bit, count, bits]
      simp only [count ▸ room, true_and]
      obtain earlier | rfl | later := Nat.lt_trichotomy i ms.length
      · rw [if_neg earlier.ne, List.getElem?_append_left earlier]
      · rw [if_pos rfl]
        cases m <;> simp
      · rw [if_neg later.ne']
        simp [List.getElem?_eq_none, later.le, Nat.succ_le_of_lt later]

/-- Settles O22: `foldl_appendBit_of_empty`, bit `i` standing in byte i div 8 at position i mod 8. -/
theorem bitsArePackedLsbFirst : Obligations.BitsArePackedLsbFirst :=
  fun _ ms empty zero fits => foldl_appendBit_of_empty empty zero ms fits

end Sys2Proof.Machine
end

section
/-! Runs (70_reset_and_hazards.md section 5, rule R131): the state after a run's first word, what is visible after each
word, and bounds that hold after every word. -/

namespace Sys2Proof.Machine

variable {s t : State} {w : Word} {ws : List Word}

/-! ### The first word of a run -/

/-- A run's words begin with an RST, however many of them are taken. -/
theorem exists_take_of_isRun {seq : WordSequence} (run : seq.isRun = true) (n : Nat) :
    ∃ w ws, seq.take (n + 1) = w :: ws ∧ w.rstBit = true := by
  cases seq with
  | finite ws =>
    cases ws with
    | nil => cases run
    | cons w ws => exact ⟨w, ws.take n, rfl, run⟩
  | infinite ws => exact ⟨ws 0, _, by rw [WordSequence.take, List.range_succ_eq_map]; rfl, run⟩

/-- RST leads to its state from any registers (40_primitives.md rule R60). -/
theorem step_presentWord_rst (s : State) (rst : w.rstBit = true) : step (s.presentWord w) = .next s.hardReset := by
  rw [step_presentWord, decode_of_rstBit rst]
  rfl

theorem visibleTrace_rst (ws : List Word) (s : State) (rst : w.rstBit = true) :
    visibleTrace (w :: ws) s = s.hardReset.visible :: visibleTrace ws s.hardReset :=
  visibleTrace_cons_next ws (step_presentWord_rst s rst)

/-! ### Bounds -/

/-- From a state that meets the invariant, all that is ever visible is of states that meet it. -/
theorem Inv.of_visible (inv : Inv s) {v : Visible} (seen : v ∈ s.visible :: visibleTrace ws s) :
    ∃ t, Inv t ∧ t.cfg = s.cfg ∧ v = t.visible := by
  induction ws generalizing s with
  | nil => exact ⟨s, inv, rfl, List.mem_singleton.1 seen⟩
  | cons w ws ih =>
    obtain now | later := List.mem_cons.1 seen
    · exact ⟨s, inv, rfl, now⟩
    cases next : Machine.step (s.presentWord w) with
    | next u =>
      rw [visibleTrace_cons_next ws next] at later
      obtain ⟨t, inv_t, cfg, rfl⟩ := ih ((inv.presentWord w).step next) later
      exact ⟨t, inv_t, cfg.trans (configurationIsConstant.2 (s.presentWord w) u next), rfl⟩
    | fault r => cases r
    | refused r => simp [visibleTrace, next] at later

/-- Settles O56: RST sets up the invariant (`inv_hardReset`), and `Inv.of_visible` carries its bounds on. -/
theorem visibleRegistersStayInBounds : Obligations.VisibleRegistersStayInBounds := by
  rintro c wf seq s run - rfl - n v seen
  obtain ⟨w, ws, words, rst⟩ := exists_take_of_isRun run n
  rw [WordSequence.visibleAt, words, visibleTrace_rst ws s rst] at seen
  obtain ⟨t, inv, cfg, rfl⟩ := (inv_hardReset wf).of_visible (List.mem_of_getElem? seen)
  have cfg' : t.cfg = s.cfg := cfg
  exact cfg' ▸ ⟨inv.outCnt_le, inv.retVal_le, inv.outBuf_bound⟩

/-! ### Words and what is visible after them -/

/-- A word that is not reserved has a next state. -/
theorem exists_step_of_legal (s : State) (legal : (decode w).toBool = true) :
    ∃ t, step (s.presentWord w) = .next t := by
  rw [step_presentWord]
  cases h : decode w with
  | ok ops => exact ⟨_, rfl⟩
  | error why => exact nomatch (h ▸ legal : (Except.error why : Except ReservedClass Bundle).toBool = true)

/-- Words that are not reserved have a next state, and what is visible last is its visible part. -/
theorem exists_observed (s : State) (legal : noReservedWord ws = true) :
    ∃ u, runWords ws s = .next u ∧ (s.visible :: visibleTrace ws s)[ws.length]? = some u.visible := by
  induction ws generalizing s with
  | nil => exact ⟨s, rfl, rfl⟩
  | cons w ws ih =>
    obtain ⟨legal_w, legal_ws⟩ := List.all_cons.symm.trans legal |> Bool.and_eq_true_iff.1
    obtain ⟨t, next⟩ := exists_step_of_legal s legal_w
    rw [runWords_cons_next ws next, visibleTrace_cons_next ws next]
    exact ih t legal_ws

theorem length_take_of_has {seq : WordSequence} {n : Nat} (has : seq.has n) : (seq.take (n + 1)).length = n + 1 := by
  cases seq with
  | finite ws => exact List.length_take_of_le has
  | infinite ws => rw [WordSequence.take, List.length_map, List.length_range]

/-- Settles O55: after the first word, an RST, the registers before the run are gone (`visibleTrace_rst`), and
`exists_observed` follows the words that are not reserved. -/
theorem runsAreObservedWordByWord : Obligations.RunsAreObservedWordByWord := by
  intro seq s t run legal cfg inputs
  refine ⟨fun n has => ?_, ?_, fun n => ?_⟩
  · obtain ⟨w, ws, words, -⟩ := exists_take_of_isRun run n
    have length := length_take_of_has has
    rw [words, List.length_cons, Nat.add_right_cancel_iff] at length
    subst length
    rw [WordSequence.visibleAt, words]
    exact exists_observed s (words ▸ legal _)
  · obtain ⟨w, ws, words, rst⟩ := exists_take_of_isRun run 0
    rw [WordSequence.visibleAt, words, visibleTrace_rst ws s rst]
    rfl
  · obtain ⟨w, ws, words, rst⟩ := exists_take_of_isRun run n
    have same : s.hardReset = t.hardReset := by rw [hardReset_eq, hardReset_eq, cfg, inputs]
    rw [WordSequence.visibleAt, WordSequence.visibleAt, words, visibleTrace_rst ws s rst, visibleTrace_rst ws t rst,
      same]

end Sys2Proof.Machine
end
